-- ==== Sys2Proof/Word.lean ====
section
/-! DEFINITION. The widths of the block's values (00_scope.md R6, R7): a byte is 8 bits, a command word 32,
the accumulator, RAW and a table entry 16, RES and response data 64, LEN and OFF 9. Bit 0 is the least
significant bit. -/

namespace Sys2Proof

/-- A byte: 8 bits (00_scope.md R6). -/
abbrev Byte := BitVec 8

/-- A CRC value: 16 bits (00_scope.md R5 `ACC_W`, 10_state.md R11). -/
abbrev Crc := BitVec 16

/-- A command word: 32 bits (00_scope.md R5 `CMD_W`, 30_encoding.md R60). -/
abbrev CmdWord := BitVec 32

/-- A response's data and the RES register: 64 bits (00_scope.md R5 `RES_W`, 30_encoding.md R71). -/
abbrev Data := BitVec 64

/-- A byte offset as a command names it, and the LEN counter: 9 bits (00_scope.md R5 `LEN_W`, 30_encoding.md R65). -/
abbrev Offset := BitVec 9

end Sys2Proof
end

