-- ==== Sys2Proof/Config.lean ====
section
/-! DEFINITION. The two parameters of the block that 00_scope.md R5 leaves to the instance ("argument"):
TYPE_OFF and ROUND_TIE. Every other parameter of that table is a constant (Machine/Layout.lean). -/

namespace Sys2Proof

/-- The tie rule of the rounder (00_scope.md R5 `ROUND_TIE`, 42_field_decode.md R129). -/
inductive RoundTie
  /-- a tie goes to the even neighbour (the spec's default) -/
  | halfEven
  /-- a tie goes away from zero -/
  | halfAway
  deriving DecidableEq, Repr

/-- The parameters of one instance of the block (00_scope.md R5, rows marked "argument"). They are no registers:
nothing a host does changes them (10_state.md R24). -/
structure Config where
  /-- TYPE_OFF: the offset of the type byte of a LOOP or LOOP2 packet -/
  typeOff : Nat
  /-- ROUND_TIE: which way an exact tie is rounded -/
  roundTie : RoundTie
  deriving DecidableEq, Repr

/-- The range 00_scope.md R5 gives TYPE_OFF: 3 to 96. -/
def Config.inRange (c : Config) : Prop := 3 ≤ c.typeOff ∧ c.typeOff ≤ 96

/-- The default arguments of 00_scope.md R5: TYPE_OFF = 3, ROUND_TIE = half_even. -/
def Config.specDefault : Config where
  typeOff := 3
  roundTie := .halfEven

end Sys2Proof
end

