-- ==== Sys2Proof/Syntax.lean ====
section
/-! DEFINITION. The ten commands of CFD-1 and their operands (30_encoding.md R62, R65). Reserved field values
have no constructor; which combinations are legal is WellFormed.lean; the bits are Decode.lean. -/

namespace Sys2Proof

/-- The packet kinds of KIND (10_state.md R15). -/
inductive Kind
  | loop | loop2 | hilow | time
  deriving DecidableEq, Repr

/-- The integer formats of FMT (30_encoding.md R65). -/
inductive Fmt
  /-- one byte, unsigned -/
  | u8
  /-- two bytes, two's complement, little-endian -/
  | s16le
  /-- two bytes, unsigned, little-endian -/
  | u16le
  deriving DecidableEq, Repr

/-- The sentinel selectors of SENT (30_encoding.md R65). -/
inductive Sent
  /-- NONE: no comparison -/
  | noSentinel
  /-- FFFF: the 16-bit time codes' pattern -/
  | patFFFF
  /-- 7FFF: the signed measurements' pattern -/
  | pat7FFF
  /-- FF: the percentages' pattern 0x00FF -/
  | patFF
  /-- ZERO: the barometer's pattern 0x0000 -/
  | patZero
  deriving DecidableEq, Repr

/-- The conversions of CONV (30_encoding.md R65). -/
inductive Conv
  | raw | f2c | mph2ms | inhg2hpa | clicks2mm | compass | hhmm
  deriving DecidableEq, Repr

/-- The pre-divisors of PDIV (30_encoding.md R65), named by the divisor they select. -/
inductive Pdiv
  | by1 | by10 | by100 | by1000
  deriving DecidableEq, Repr

/-- The registers REG.RD reads by number (10_state.md R24). -/
inductive RegName
  | acc | status | len | raw | res
  deriving DecidableEq, Repr

/-- The ten commands (30_encoding.md R62), one constructor per row of the opcode map. -/
inductive Instr
  /-- NOP (43_system.md R160) -/
  | nop
  /-- CRC.CLR (40_crc_engine.md R82) -/
  | crcClr
  /-- CRC.UPD byte (40_crc_engine.md R83) -/
  | crcUpd (b : Byte)
  /-- CRC.RD (40_crc_engine.md R84) -/
  | crcRd
  /-- CRC.CMP hi lo (40_crc_engine.md R85, 30_encoding.md R64) -/
  | crcCmp (hi lo : Byte)
  /-- PKT.CLR kind (41_packet_validate.md R101) -/
  | pktClr (k : Kind)
  /-- PKT.PUSH byte (41_packet_validate.md R102) -/
  | pktPush (b : Byte)
  /-- PKT.VAL (41_packet_validate.md R103) -/
  | pktVal
  /-- FLD.DEC off fmt sent conv pdiv (42_field_decode.md R120) -/
  | fldDec (off : Offset) (fmt : Fmt) (sent : Sent) (conv : Conv) (pdiv : Pdiv)
  /-- REG.RD reg (43_system.md R161) -/
  | regRd (r : RegName)
  deriving DecidableEq, Repr

end Sys2Proof
end

