-- ==== Sys2Proof/Machine/Layout.lean ====
section
/-! DEFINITION. The constants of 00_scope.md R5 and the per-kind constants of 20_memory.md R54 (packet layouts R51 to
R53). -/

namespace Sys2Proof.Machine

/-- BUF_SIZE: PKT has 438 bytes, offsets 0 to 437 (10_state.md R13). -/
def bufSize : Nat := 438

/-- LEN saturates at 511 (10_state.md R14). -/
def lenMax : Nat := 511

/-- CRC_INIT (40_crc_engine.md R81). -/
def crcInit : Crc := 0x0000

/-- ACK, the acknowledgment byte (41_packet_validate.md R105). -/
def ackByte : Byte := 0x06

/-- TAG, the three bytes "LOO" (41_packet_validate.md R106). -/
def tagBytes : List Byte := [0x4C, 0x4F, 0x4F]

/-- EXPLEN (20_memory.md R54). -/
def expLen : Kind → Nat
  | .loop => 99
  | .loop2 => 99
  | .hilow => 438
  | .time => 9

/-- CRC_LO, the first offset the CRC covers (20_memory.md R54). -/
def crcLo : Kind → Nat
  | .loop => 0
  | .loop2 => 0
  | .hilow => 0
  | .time => 1

/-- The offset of the CRC field, EXPLEN - 2 (20_memory.md R54). -/
def crcFieldAt (k : Kind) : Nat := expLen k - 2

/-- PAY_LO, the first offset of the payload window (20_memory.md R54). -/
def payLo : Kind → Nat
  | .loop => 0
  | .loop2 => 0
  | .hilow => 0
  | .time => 1

/-- PAY_HI, the last offset of the payload window (20_memory.md R54). -/
def payHi : Kind → Nat
  | .loop => 96
  | .loop2 => 96
  | .hilow => 435
  | .time => 6

end Sys2Proof.Machine
end

