-- ==== Sys2Proof/WellFormed.lean ====
section
/-! DEFINITION. Which combinations of operands a command word can spell. Reserved values are excluded by the types
of Syntax.lean; what is left of 30_encoding.md R66 are its items 6 and 7, both about FLD.DEC. -/

namespace Sys2Proof

/-- Item 6 of 30_encoding.md R66: COMPASS and HHMM act on the raw integer and take no pre-divisor. -/
def pdivFits (conv : Conv) (pdiv : Pdiv) : Bool :=
  match conv with
  | .compass | .hhmm => pdiv == .by1
  | .raw | .f2c | .mph2ms | .inhg2hpa | .clicks2mm => true

/-- Item 7 of 30_encoding.md R66: HHMM of a signed field is illegal. -/
def fmtFits (conv : Conv) (fmt : Fmt) : Bool :=
  match conv with
  | .hhmm => fmt != .s16le
  | .raw | .f2c | .mph2ms | .inhg2hpa | .clicks2mm | .compass => true

/-- A command with legal operands (30_encoding.md R67). -/
def wellFormed : Instr → Bool
  | .fldDec _ fmt _ conv pdiv => pdivFits conv pdiv && fmtFits conv fmt
  | .nop => true
  | .crcClr => true
  | .crcUpd _ => true
  | .crcRd => true
  | .crcCmp _ _ => true
  | .pktClr _ => true
  | .pktPush _ => true
  | .pktVal => true
  | .regRd _ => true

end Sys2Proof
end

