-- ==== Sys2Proof/Decode.lean ====
section
/-! DEFINITION. The command word (30_encoding.md R60 to R67): the decoder, total on 32-bit words, which rejects a
word by the item of R66 that makes it illegal, and the encoder, written from the same formats (R61). -/

namespace Sys2Proof

/-- Why a word spells no command (30_encoding.md R66). The block answers all of them alike. -/
inductive IllegalReason
  /-- item 1: OP is 0xA to 0xF -/
  | opcode
  /-- item 2: a must-be-zero bit is 1 -/
  | mustBeZero
  /-- item 3: FMT = 3 -/
  | fmt
  /-- item 4: SENT is 5, 6 or 7 -/
  | sent
  /-- item 5: CONV is 7 to 15 -/
  | conv
  /-- item 6: COMPASS or HHMM with a pre-divisor -/
  | pdivOnCode
  /-- item 7: HHMM with S16LE -/
  | signedTimeCode
  /-- item 8: REG is 5 to 15 -/
  | register
  deriving DecidableEq, Repr

/-! ### The codes of the operand fields (30_encoding.md R65, 10_state.md R15, R24) -/

/-- KIND: 0 LOOP, 1 LOOP2, 2 HILOW, 3 TIME (10_state.md R15). -/
def kindCode : Kind → BitVec 2
  | .loop => 0
  | .loop2 => 1
  | .hilow => 2
  | .time => 3

/-- All four values of KIND are legal (10_state.md R15). -/
def kindOfCode (c : BitVec 2) : Kind :=
  match c.toNat with
  | 0 => .loop
  | 1 => .loop2
  | 2 => .hilow
  | _ => .time

/-- FMT (30_encoding.md R65). -/
def fmtCode : Fmt → BitVec 2
  | .u8 => 0
  | .s16le => 1
  | .u16le => 2

/-- FMT = 3 is reserved (30_encoding.md R65). -/
def fmtOfCode (c : BitVec 2) : Option Fmt :=
  match c.toNat with
  | 0 => some .u8
  | 1 => some .s16le
  | 2 => some .u16le
  | _ => none

/-- SENT (30_encoding.md R65). -/
def sentCode : Sent → BitVec 3
  | .noSentinel => 0
  | .patFFFF => 1
  | .pat7FFF => 2
  | .patFF => 3
  | .patZero => 4

/-- SENT 5 to 7 are reserved (30_encoding.md R65). -/
def sentOfCode (c : BitVec 3) : Option Sent :=
  match c.toNat with
  | 0 => some .noSentinel
  | 1 => some .patFFFF
  | 2 => some .pat7FFF
  | 3 => some .patFF
  | 4 => some .patZero
  | _ => none

/-- CONV (30_encoding.md R65). -/
def convCode : Conv → BitVec 4
  | .raw => 0
  | .f2c => 1
  | .mph2ms => 2
  | .inhg2hpa => 3
  | .clicks2mm => 4
  | .compass => 5
  | .hhmm => 6

/-- CONV 7 to 15 are reserved (30_encoding.md R65). -/
def convOfCode (c : BitVec 4) : Option Conv :=
  match c.toNat with
  | 0 => some .raw
  | 1 => some .f2c
  | 2 => some .mph2ms
  | 3 => some .inhg2hpa
  | 4 => some .clicks2mm
  | 5 => some .compass
  | 6 => some .hhmm
  | _ => none

/-- PDIV (30_encoding.md R65). -/
def pdivCode : Pdiv → BitVec 2
  | .by1 => 0
  | .by10 => 1
  | .by100 => 2
  | .by1000 => 3

/-- All four values of PDIV name a divisor (30_encoding.md R65). -/
def pdivOfCode (c : BitVec 2) : Pdiv :=
  match c.toNat with
  | 0 => .by1
  | 1 => .by10
  | 2 => .by100
  | _ => .by1000

/-- REG: 0 ACC, 1 STATUS, 2 LEN, 3 RAW, 4 RES (10_state.md R24). -/
def regCode : RegName → BitVec 4
  | .acc => 0
  | .status => 1
  | .len => 2
  | .raw => 3
  | .res => 4

/-- REG 5 to 15 are reserved (10_state.md R24). -/
def regOfCode (c : BitVec 4) : Option RegName :=
  match c.toNat with
  | 0 => some .acc
  | 1 => some .status
  | 2 => some .len
  | 3 => some .raw
  | 4 => some .res
  | _ => none

/-! ### The decoder -/

/-- A word whose must-be-zero bits `mbz` are clear spells `i` (30_encoding.md R61, R66 item 2). -/
def whenZero {n : Nat} (mbz : BitVec n) (i : Instr) : Except IllegalReason Instr :=
  if mbz = 0 then .ok i else .error .mustBeZero

/-- Format F, FLD.DEC (30_encoding.md R61): OFF 8:0, FMT 10:9, SENT 13:11, CONV 17:14, PDIV 19:18; 27:20 must be
zero. Items 2 to 7 of R66. -/
def decodeFieldDescriptor (w : CmdWord) : Except IllegalReason Instr :=
  if w.extractLsb' 20 8 ≠ 0 then .error .mustBeZero
  else
    match fmtOfCode (w.extractLsb' 9 2), sentOfCode (w.extractLsb' 11 3), convOfCode (w.extractLsb' 14 4) with
    | none, _, _ => .error .fmt
    | some _, none, _ => .error .sent
    | some _, some _, none => .error .conv
    | some fmt, some sent, some conv =>
      let pdiv := pdivOfCode (w.extractLsb' 18 2)
      if pdivFits conv pdiv = false then .error .pdivOnCode
      else if fmtFits conv fmt = false then .error .signedTimeCode
      else .ok (.fldDec (w.extractLsb' 0 9) fmt sent conv pdiv)

/-- Format R, REG.RD (30_encoding.md R61): REG 3:0; 27:4 must be zero. Items 2 and 8 of R66. -/
def decodeRegister (w : CmdWord) : Except IllegalReason Instr :=
  if w.extractLsb' 4 24 ≠ 0 then .error .mustBeZero
  else
    match regOfCode (w.extractLsb' 0 4) with
    | none => .error .register
    | some r => .ok (.regRd r)

/-- The decoder (30_encoding.md R67): OP (31:28) selects the row of R62, the fields are cut as R61 says. -/
def decode (w : CmdWord) : Except IllegalReason Instr :=
  match (w.extractLsb' 28 4).toNat with
  | 0 => whenZero (w.extractLsb' 0 28) .nop
  | 1 => whenZero (w.extractLsb' 0 28) .crcClr
  | 2 => whenZero (w.extractLsb' 8 20) (.crcUpd (w.extractLsb' 0 8))
  | 3 => whenZero (w.extractLsb' 0 28) .crcRd
  | 4 => whenZero (w.extractLsb' 16 12) (.crcCmp (w.extractLsb' 8 8) (w.extractLsb' 0 8))
  | 5 => whenZero (w.extractLsb' 2 26) (.pktClr (kindOfCode (w.extractLsb' 0 2)))
  | 6 => whenZero (w.extractLsb' 8 20) (.pktPush (w.extractLsb' 0 8))
  | 7 => whenZero (w.extractLsb' 0 28) .pktVal
  | 8 => decodeFieldDescriptor w
  | 9 => decodeRegister w
  | _ => .error .opcode

/-! ### The encoder -/

/-- The word of a command: OP, the must-be-zero bits, the fields (30_encoding.md R61, R62). -/
def encode : Instr → CmdWord
  | .nop => 0x0#4 ++ 0#28
  | .crcClr => 0x1#4 ++ 0#28
  | .crcUpd b => 0x2#4 ++ 0#20 ++ b
  | .crcRd => 0x3#4 ++ 0#28
  | .crcCmp hi lo => 0x4#4 ++ 0#12 ++ hi ++ lo
  | .pktClr k => 0x5#4 ++ 0#26 ++ kindCode k
  | .pktPush b => 0x6#4 ++ 0#20 ++ b
  | .pktVal => 0x7#4 ++ 0#28
  | .fldDec off fmt sent conv pdiv =>
    0x8#4 ++ 0#8 ++ pdivCode pdiv ++ convCode conv ++ sentCode sent ++ fmtCode fmt ++ off
  | .regRd r => 0x9#4 ++ 0#24 ++ regCode r

/-- The row of 30_encoding.md R62 a command belongs to, as (match, mask). -/
def opcodeRow : Instr → CmdWord × CmdWord
  | .nop => (0x00000000, 0xFFFFFFFF)
  | .crcClr => (0x10000000, 0xFFFFFFFF)
  | .crcUpd _ => (0x20000000, 0xFFFFFF00)
  | .crcRd => (0x30000000, 0xFFFFFFFF)
  | .crcCmp _ _ => (0x40000000, 0xFFFF0000)
  | .pktClr _ => (0x50000000, 0xFFFFFFFC)
  | .pktPush _ => (0x60000000, 0xFFFFFF00)
  | .pktVal => (0x70000000, 0xFFFFFFFF)
  | .fldDec _ _ _ _ _ => (0x80000000, 0xFFF00000)
  | .regRd _ => (0x90000000, 0xFFFFFFF0)

/-- The command the decoder reads from the word whose low `nbits` bits are those of `w`. The bits above `nbits` are 0;
bits above 31 spell no word of this block (30_encoding.md R60). -/
def decodeTableWord (nbits w : Nat) : Option Instr :=
  if w % 2 ^ nbits < 2 ^ 32 then (decode (BitVec.ofNat 32 (w % 2 ^ nbits))).toOption else none

end Sys2Proof
end

