-- ==== Sys2Proof/Machine/State.lean ====
section
/-! DEFINITION. The state of the block (10_state.md R10, all eleven items), the model's own fields beside it (the
instance's parameters, the host's inputs, the responses given), the state after reset, and the reasons a step can
stop. -/

namespace Sys2Proof.Machine

/-- The sequencing states of VS (10_state.md R16). The value 3 is never taken and has no constructor (log 6). -/
inductive Vs
  | loading | valid | failed
  deriving DecidableEq, Repr

/-- The status codes 0 to 8 (60_exceptions.md R171), in numeric order. 9 to 15 are never produced and have no
constructor (log 6). -/
inductive Status
  | ok
  | lengthMismatch
  | commandNotAcknowledged
  | tagMismatch
  | typeMismatch
  | checksumMismatch
  | structuralDecodeError
  | sequenceError
  | illegalCommand
  deriving DecidableEq, Repr

/-- A response (ST, ABS, DATA) (30_encoding.md R71). -/
structure Response where
  /-- ST, the status code -/
  st : Status
  /-- ABS, the absent flag -/
  abs : Bool
  /-- DATA, 64 bits -/
  data : Data
  deriving DecidableEq, Repr

/-- What the host can do (00_scope.md R9): present a command word, or assert reset (70_reset_and_hazards.md R190). -/
inductive HostInput
  /-- a 32-bit word on the command port -/
  | command (w : CmdWord)
  /-- the reset input, between two commands -/
  | reset
  deriving DecidableEq, Repr

/-- The bytes of PKT that have a value, as (offset, byte) pairs (10_state.md R13, 20_memory.md R50). An offset that is
not listed has no value (log 5). -/
abbrev Memory := List Host.Cell

/-- The canonical form of a memory: offsets strictly rising. An unlisted offset reads as no value, so no listed entry
can equal it. -/
abbrev Memory.wf (m : Memory) : Prop := m.Pairwise (fun x y => x.1 < y.1)

/-- The state. The first eleven fields are the block's architectural state (10_state.md R10); `cfg`, `inbox` and
`responses` are the model's own (log 1, log 4) and are no state of the block (10_state.md R28). -/
structure State where
  /-- ACC, the CRC accumulator (R11) -/
  acc : Crc
  /-- MATCH, the result of the last CRC.CMP (R21) -/
  matchFlag : Bool
  /-- PKT, the packet buffer (R13) -/
  pkt : Memory
  /-- LEN, bytes pushed since PKT.CLR, saturating at 511 (R14) -/
  len : Offset
  /-- KIND, the packet kind (R15) -/
  kind : Kind
  /-- VS, the sequencing state (R16) -/
  vs : Vs
  /-- FAILCODE, why VS is FAILED (R17) -/
  failcode : Status
  /-- RAW, the raw bits of the last field read (R18) -/
  raw : BitVec 16
  /-- RES, the result of the last field decode, two's complement (R19) -/
  res : Data
  /-- ABS, the last field decoded was absent (R20) -/
  abs : Bool
  /-- LST, the status of the last command that writes it (R22) -/
  lst : Status
  /-- the instance's parameters (00_scope.md R5): no step changes them -/
  cfg : Config
  /-- the host's inputs not yet taken, oldest first (00_scope.md R8) -/
  inbox : List HostInput
  /-- the responses given so far, oldest first (30_encoding.md R71, 70_reset_and_hazards.md R201) -/
  responses : List Response
  deriving DecidableEq, Repr

/-- Why a step stops with a fault. -/
inductive Fault
  /-- A rule would read a byte of PKT that has no value. Raised by PKT.VAL and FLD.DEC, in no reachable state
  (20_memory.md R50). Safe: the model stops where it would have to make a byte up (log 5). -/
  | byteWithoutValue (offset : Nat)
  deriving DecidableEq, Repr

/-- Why a step is refused. -/
inductive Refusal
  /-- The instruction has no meaning in the model yet. Raised by no arm of exec: every command is modelled. Safe. -/
  | notModelled (mnemonic : String)
  deriving DecidableEq, Repr

/-- The state after reset of an instance with parameters `c` (70_reset_and_hazards.md R191), with nothing presented and
nothing answered. -/
def State.resetWith (c : Config) : State where
  acc := 0x0000
  matchFlag := false
  pkt := []
  len := 0
  kind := .loop
  vs := .loading
  failcode := .ok
  raw := 0x0000
  res := 0
  abs := false
  lst := .ok
  cfg := c
  inbox := []
  responses := []

/-- The state after reset, with the spec's default parameters (70_reset_and_hazards.md R191, 00_scope.md R5). -/
def State.reset : State := State.resetWith Config.specDefault

end Sys2Proof.Machine
end

