-- ==== Sys2Proof/Machine/Flags.lean ====
section
/-! DEFINITION. The flags and codes of the block: the numbers of the status codes and of VS, the comparison CRC.CMP
makes, and the STATUS view that packs them (10_state.md R16, R20 to R23; 60_exceptions.md R171). There are no carry,
zero, sign or overflow flags (10_state.md R22). -/

namespace Sys2Proof.Machine

/-- The number of a status code (60_exceptions.md R171). -/
def statusCode : Status → BitVec 4
  | .ok => 0
  | .lengthMismatch => 1
  | .commandNotAcknowledged => 2
  | .tagMismatch => 3
  | .typeMismatch => 4
  | .checksumMismatch => 5
  | .structuralDecodeError => 6
  | .sequenceError => 7
  | .illegalCommand => 8

/-- The number of a sequencing state (10_state.md R16). -/
def vsCode : Vs → BitVec 2
  | .loading => 0
  | .valid => 1
  | .failed => 2

/-- MATCH after a comparison: 1 when ACC equals the operand (10_state.md R21, 40_crc_engine.md R85). -/
def crcMatches (acc v : Crc) : Bool := acc == v

/-- A 1-bit flag as a 64-bit value. -/
def flagData (b : Bool) : Data := (BitVec.ofBool b).setWidth 64

/-- The STATUS view (10_state.md R23): LST 3:0, VS 5:4, KIND 7:6, ABS 8, MATCH 9, FAILCODE 13:10, the rest 0. -/
def statusView (s : State) : Data :=
  0#50 ++ statusCode s.failcode ++ BitVec.ofBool s.matchFlag ++ BitVec.ofBool s.abs ++ kindCode s.kind
    ++ vsCode s.vs ++ statusCode s.lst

end Sys2Proof.Machine
end

