-- ==== Sys2Proof/Machine/Operands.lean ====
section
/-! DEFINITION. What each operand form means: the 16-bit operand of CRC.CMP (30_encoding.md R64), the descriptor of
FLD.DEC (R65; 42_field_decode.md R122, R125, R126), the register of REG.RD (10_state.md R24). -/

namespace Sys2Proof.Machine

/-- IMM16 = (HI << 8) | LO, HI the first byte on the wire (30_encoding.md R64). -/
def imm16 (hi lo : Byte) : Crc := hi ++ lo

/-- The bytes a field occupies: 1 for U8, 2 for S16LE and U16LE (42_field_decode.md R122). -/
def fmtWidth : Fmt → Nat
  | .u8 => 1
  | .s16le => 2
  | .u16le => 2

/-- The payload window check (42_field_decode.md R122): the whole field lies in PAY_LO to PAY_HI of the kind. -/
def inWindow (k : Kind) (off : Offset) (fmt : Fmt) : Bool :=
  decide (payLo k ≤ off.toNat ∧ off.toNat + fmtWidth fmt - 1 ≤ payHi k)

/-- PATTERN of a sentinel selector; NONE has none (42_field_decode.md R125). -/
def sentPattern : Sent → Option (BitVec 16)
  | .noSentinel => none
  | .patFFFF => some 0xFFFF
  | .pat7FFF => some 0x7FFF
  | .patFF => some 0x00FF
  | .patZero => some 0x0000

/-- The sentinel comparator (42_field_decode.md R125): absent if and only if there is a pattern and the raw bits are
it, bit for bit. -/
def isAbsent (sent : Sent) (bits : BitVec 16) : Bool :=
  match sentPattern sent with
  | none => false
  | some p => bits == p

/-- The raw integer N (42_field_decode.md R126): two's complement for S16LE, unsigned otherwise. -/
def rawInteger (fmt : Fmt) (bits : BitVec 16) : Int :=
  match fmt with
  | .s16le => bits.toInt
  | .u8 => bits.toNat
  | .u16le => bits.toNat

/-- The pre-divisor P (30_encoding.md R65, 42_field_decode.md R127). -/
def divisor : Pdiv → Int
  | .by1 => 1
  | .by10 => 10
  | .by100 => 100
  | .by1000 => 1000

/-- The value REG.RD returns (10_state.md R24). -/
def registerValue (r : RegName) (s : State) : Data :=
  match r with
  | .acc => s.acc.setWidth 64
  | .status => statusView s
  | .len => s.len.setWidth 64
  | .raw => s.raw.setWidth 64
  | .res => s.res

end Sys2Proof.Machine
end

