-- ==== Sys2Proof/Machine/Ops.lean ====
section
/-! DEFINITION. The operations the commands share: reading and appending bytes of PKT (20_memory.md R42 to R50), taking
the host's next input and answering it (00_scope.md R8, 30_encoding.md R71), refusing a command (60_exceptions.md R179,
R180), entering FAILED and leaving it (R182, R183), reset (70_reset_and_hazards.md R190). -/

namespace Sys2Proof.Machine

/-! ### The packet buffer -/

/-- The byte at an offset, where it has a value (20_memory.md R50). -/
def readByte : Memory → Nat → Option Byte
  | [], _ => none
  | (k, b) :: m, a => if k = a then some b else readByte m a

/-- The buffer with one byte written, the offsets kept rising. -/
def storeByte : Memory → Nat → Byte → Memory
  | [], a, b => [(a, b)]
  | (k, c) :: m, a, b =>
    if a < k then (a, b) :: (k, c) :: m
    else if a = k then (a, b) :: m
    else (k, c) :: storeByte m a b

/-- `PKT[a]`; a byte without a value is a fault and no number (20_memory.md R50; log 5). -/
def readPkt (s : State) (a : Nat) : Except Fault Byte :=
  match readByte s.pkt a with
  | some b => .ok b
  | none => .error (.byteWithoutValue a)

/-- The `n` bytes of PKT from offset `a` up. -/
def readRange (s : State) (a : Nat) : Nat → Except Fault (List Byte)
  | 0 => .ok []
  | n + 1 =>
    match readPkt s a with
    | .error e => .error e
    | .ok b =>
      match readRange s (a + 1) n with
      | .error e => .error e
      | .ok bs => .ok (b :: bs)

/-- `MemRead(a, 2)`: little-endian, the byte at the lower offset low (20_memory.md R42). -/
def readLE16 (s : State) (a : Nat) : Except Fault (BitVec 16) :=
  match readPkt s a with
  | .error e => .error e
  | .ok lo =>
    match readPkt s (a + 1) with
    | .error e => .error e
    | .ok hi => .ok (hi ++ lo)

/-- `MemReadBE(a, 2)`: big-endian, the byte at the lower offset high (20_memory.md R43). -/
def readBE16 (s : State) (a : Nat) : Except Fault (BitVec 16) :=
  match readPkt s a with
  | .error e => .error e
  | .ok hi =>
    match readPkt s (a + 1) with
    | .error e => .error e
    | .ok lo => .ok (hi ++ lo)

/-- min(LEN + 1, 511) (10_state.md R14, 41_packet_validate.md R102). -/
def nextLen (l : Offset) : Offset := BitVec.ofNat 9 (min (l.toNat + 1) lenMax)

/-- `MemWrite(LEN, 1, b)` for LEN below 438, and the count (41_packet_validate.md R102, 20_memory.md R49). -/
def appendByte (s : State) (b : Byte) : State :=
  { s with
    pkt := if s.len.toNat < bufSize then storeByte s.pkt s.len.toNat b else s.pkt
    len := nextLen s.len }

/-! ### The command port -/

/-- The host's next input, and the state without it (00_scope.md R8). -/
def takeInput (s : State) : Option (HostInput × State) :=
  match s.inbox with
  | [] => none
  | e :: rest => some (e, { s with inbox := rest })

/-- The host presents a word, ahead of whatever else it has presented. -/
def presentWord (s : State) (w : CmdWord) : State :=
  { s with inbox := .command w :: s.inbox }

/-- `respond(st, abs, data)` (00_scope.md R7, 30_encoding.md R71). -/
def respond (s : State) (st : Status) (abs : Bool) (data : Data) : State :=
  { s with responses := s.responses ++ [{ st := st, abs := abs, data := data }] }

/-- A command that succeeds: LST <- 0, response (0, 0, data). -/
def succeed (s : State) (data : Data) : State :=
  respond { s with lst := .ok } .ok false data

/-- A command that fails with a code: LST <- st, response (st, 0, 0), nothing else (30_encoding.md R71,
60_exceptions.md R170). -/
def refuseCommand (s : State) (st : Status) : State :=
  respond { s with lst := st } st false 0

/-- SequenceError (60_exceptions.md R180). -/
def sequenceError (s : State) : State := refuseCommand s .sequenceError

/-- IllegalCommand (60_exceptions.md R179): the whole effect of a word that spells no command. -/
def illegalCommand (s : State) : State := refuseCommand s .illegalCommand

/-! ### Entering and leaving FAILED -/

/-- A failure of the packet with code `f` (60_exceptions.md R182): VS <- FAILED, FAILCODE <- f, and as for every
command LST and the response. -/
def failPacket (s : State) (f : Status) : State :=
  refuseCommand { s with vs := .failed, failcode := f } f

/-- A new packet of kind `k`, the one way out of FAILED and VALID but reset (41_packet_validate.md R101,
60_exceptions.md R183). Every byte of PKT is again without value (20_memory.md R49). -/
def startPacket (s : State) (k : Kind) : State :=
  { s with
    kind := k
    len := 0
    pkt := []
    vs := .loading
    failcode := .ok
    raw := 0
    res := 0
    abs := false }

/-! ### Results of a field decode -/

/-- A field outside the payload window (42_field_decode.md R122): RAW, RES and ABS are zeroed and the packet fails
with code 6. -/
def structuralError (s : State) : State :=
  failPacket { s with raw := 0, res := 0, abs := false } .structuralDecodeError

/-- An absent field (42_field_decode.md R125): RAW the bits, ABS 1, RES 0, response (0, 1, 0). -/
def fieldAbsent (s : State) (bits : BitVec 16) : State :=
  respond { s with raw := bits, abs := true, res := 0, lst := .ok } .ok true 0

/-- A field with a value (42_field_decode.md R139): RAW the bits, RES the result in two's complement, ABS 0,
response (0, 0, r). -/
def fieldValue (s : State) (bits : BitVec 16) (r : Int) : State :=
  succeed { s with raw := bits, res := BitVec.ofInt 64 r, abs := false } (BitVec.ofInt 64 r)

/-! ### Reset -/

/-- The reset input (70_reset_and_hazards.md R190): every register at its reset value, no response. What the host has
presented since and what it was answered before stay (log 3). -/
def assertReset (s : State) : State :=
  { State.resetWith s.cfg with inbox := s.inbox, responses := s.responses }

end Sys2Proof.Machine
end

