-- ==== Sys2Proof/Machine/CrcEngine.lean ====
section
/-! DEFINITION. The CRC engine's commands (40_crc_engine.md R82 to R85). None of them can fail (R92). -/

namespace Sys2Proof.Machine

/-- CRC.CLR (40_crc_engine.md R82). -/
def execCrcClr (s : State) : Host.Outcome State Fault Refusal :=
  .next (succeed { s with acc := crcInit } 0)

/-- CRC.UPD (40_crc_engine.md R83): the response carries the new ACC. -/
def execCrcUpd (b : Byte) (s : State) : Host.Outcome State Fault Refusal :=
  .next (succeed { s with acc := crcStep s.acc b } ((crcStep s.acc b).setWidth 64))

/-- CRC.RD (40_crc_engine.md R84). -/
def execCrcRd (s : State) : Host.Outcome State Fault Refusal :=
  .next (succeed s (s.acc.setWidth 64))

/-- CRC.CMP (40_crc_engine.md R85): a mismatch is MATCH = 0, no failure; the response carries the new MATCH. -/
def execCrcCmp (hi lo : Byte) (s : State) : Host.Outcome State Fault Refusal :=
  .next (succeed { s with matchFlag := crcMatches s.acc (imm16 hi lo) } (flagData (crcMatches s.acc (imm16 hi lo))))

end Sys2Proof.Machine
end

