-- ==== Sys2Proof/Machine/Convert.lean ====
section
/-! DEFINITION. The unit scaler MUX and the rounder (42_field_decode.md R128 to R137), on unbounded integers. `/` and
`%` on Int with a positive divisor are the spec's `div` and `mod` (floor; 00_scope.md R6). -/

namespace Sys2Proof.Machine

/-- `rnd(num, den)` (42_field_decode.md R129): the integer nearest to num / den, ties by ROUND_TIE. -/
def rnd (tie : RoundTie) (num den : Int) : Int :=
  let q := num / den
  let r := num % den
  if 2 * r < den then q
  else if 2 * r > den then q + 1
  else
    match tie with
    | .halfEven => if q % 2 = 0 then q else q + 1
    | .halfAway => if num ≥ 0 then q + 1 else q

/-- RAW: no unit conversion (42_field_decode.md R130). -/
def convRaw (tie : RoundTie) (n p : Int) : Int := rnd tie (1000 * n) p

/-- F2C: Fahrenheit to Celsius (42_field_decode.md R131). -/
def convF2c (tie : RoundTie) (n p : Int) : Int := rnd tie ((n - 32 * p) * 5000) (9 * p)

/-- MPH2MS: miles per hour to metres per second (42_field_decode.md R132). -/
def convMph2ms (tie : RoundTie) (n p : Int) : Int := rnd tie (n * 44704) (100 * p)

/-- INHG2HPA: inches of mercury to hectopascals (42_field_decode.md R133). -/
def convInhg2hpa (tie : RoundTie) (n p : Int) : Int := rnd tie (n * 338639) (10 * p)

/-- CLICKS2MM: rain clicks to millimetres (42_field_decode.md R134). -/
def convClicks2mm (tie : RoundTie) (n p : Int) : Int := rnd tie (n * 254) p

/-- COMPASS: degrees to one of 16 sectors (42_field_decode.md R135). -/
def convCompass (n : Int) : Int := (4 * n + 45) / 90 % 16

/-- HHMM: time code to (hour << 8) | minute (42_field_decode.md R137). The code is never negative (30_encoding.md R66
item 7). -/
def convHhmm (n : Int) : Int := (((n / 100).toNat <<< 8 ||| (n % 100).toNat : Nat) : Int)

/-- `convert(CONV, N, P)` (42_field_decode.md R128). COMPASS and HHMM take the raw integer itself. -/
def convert (tie : RoundTie) (conv : Conv) (n p : Int) : Int :=
  match conv with
  | .raw => convRaw tie n p
  | .f2c => convF2c tie n p
  | .mph2ms => convMph2ms tie n p
  | .inhg2hpa => convInhg2hpa tie n p
  | .clicks2mm => convClicks2mm tie n p
  | .compass => convCompass n
  | .hhmm => convHhmm n

end Sys2Proof.Machine
end

