-- ==== Sys2Proof/Machine/FieldDecode.lean ====
section
/-! DEFINITION. FLD.DEC (42_field_decode.md R120): admission, window, extraction, sentinel, conversion, result. -/

namespace Sys2Proof.Machine

/-- The raw bits of a field (42_field_decode.md R123): a byte zero-extended, or two bytes little-endian. -/
def fieldBits (s : State) (off : Offset) (fmt : Fmt) : Except Fault (BitVec 16) :=
  match fmt with
  | .u8 => (readPkt s off.toNat).map (·.setWidth 16)
  | .s16le | .u16le => readLE16 s off.toNat

/-- The result of a field with a value: the conversion of N / P (42_field_decode.md R126 to R128). -/
def fieldResult (tie : RoundTie) (fmt : Fmt) (conv : Conv) (pdiv : Pdiv) (bits : BitVec 16) : Int :=
  convert tie conv (rawInteger fmt bits) (divisor pdiv)

/-- FLD.DEC (42_field_decode.md R120): SequenceError unless VALID (R121), StructuralDecodeError outside the window
(R122), then the sentinel (R125), and only then the conversion (R139). -/
def execFldDec (off : Offset) (fmt : Fmt) (sent : Sent) (conv : Conv) (pdiv : Pdiv) (s : State) :
    Host.Outcome State Fault Refusal :=
  if s.vs ≠ .valid then .next (sequenceError s)
  else if inWindow s.kind off fmt = false then .next (structuralError s)
  else
    match fieldBits s off fmt with
    | .error e => .fault e
    | .ok bits =>
      if isAbsent sent bits then .next (fieldAbsent s bits)
      else .next (fieldValue s bits (fieldResult s.cfg.roundTie fmt conv pdiv bits))

end Sys2Proof.Machine
end

