-- ==== Sys2Proof/Machine/Packet.lean ====
section
/-! DEFINITION. Packet loading and validation: PKT.CLR, PKT.PUSH, PKT.VAL (41_packet_validate.md R101 to R111). -/

namespace Sys2Proof.Machine

/-- PKT.CLR (41_packet_validate.md R101), legal in every VS. -/
def execPktClr (k : Kind) (s : State) : Host.Outcome State Fault Refusal :=
  .next (succeed (startPacket s k) 0)

/-- PKT.PUSH (41_packet_validate.md R102): refused unless VS is LOADING; the response carries the new LEN. -/
def execPktPush (b : Byte) (s : State) : Host.Outcome State Fault Refusal :=
  if s.vs = .loading then .next (succeed (appendByte s b) ((nextLen s.len).setWidth 64))
  else .next (sequenceError s)

/-! ### The checks of PKT.VAL -/

/-- The length check (41_packet_validate.md R104). -/
def lengthOk (s : State) : Except Fault Bool := .ok (s.len.toNat == expLen s.kind)

/-- The acknowledgment check, TIME only (41_packet_validate.md R105). -/
def ackOk (s : State) : Except Fault Bool :=
  match s.kind with
  | .time => (readPkt s 0).map (· == ackByte)
  | .loop | .loop2 | .hilow => .ok true

/-- The tag check, LOOP and LOOP2 only (41_packet_validate.md R106). -/
def tagOk (s : State) : Except Fault Bool :=
  match s.kind with
  | .loop | .loop2 => (readRange s 0 3).map (· == tagBytes)
  | .hilow | .time => .ok true

/-- The type check, LOOP and LOOP2 only, the whole byte compared (41_packet_validate.md R107). -/
def typeOk (s : State) : Except Fault Bool :=
  match s.kind with
  | .loop | .loop2 => (readPkt s s.cfg.typeOff).map (· == (kindCode s.kind).setWidth 8)
  | .hilow | .time => .ok true

/-- The bytes the CRC covers: offsets CRC_LO to EXPLEN - 3 (20_memory.md R54). -/
def coveredBytes (s : State) : Except Fault (List Byte) :=
  readRange s (crcLo s.kind) (crcFieldAt s.kind - crcLo s.kind)

/-- The CRC check, every kind (41_packet_validate.md R108). It uses the function `crc16` and no register (R111). -/
def crcOk (s : State) : Except Fault Bool :=
  match coveredBytes s with
  | .error e => .error e
  | .ok bs => (readBE16 s (crcFieldAt s.kind)).map (crc16 bs == ·)

/-- One check of a list of checks: the first that fails gives the code, and later ones are not made
(41_packet_validate.md R103, 60_exceptions.md R181). -/
def checkThen (c : Except Fault Bool) (f : Status) (rest : Except Fault Status) : Except Fault Status :=
  match c with
  | .error e => .error e
  | .ok true => rest
  | .ok false => .ok f

/-- The verdict of PKT.VAL on the buffer: the code of the first check that fails, or OK (41_packet_validate.md
R103). -/
def verdict (s : State) : Except Fault Status :=
  checkThen (lengthOk s) .lengthMismatch <|
  checkThen (ackOk s) .commandNotAcknowledged <|
  checkThen (tagOk s) .tagMismatch <|
  checkThen (typeOk s) .typeMismatch <|
  checkThen (crcOk s) .checksumMismatch <|
  .ok .ok

/-- PKT.VAL (41_packet_validate.md R103, R109, R110): refused unless VS is LOADING. -/
def execPktVal (s : State) : Host.Outcome State Fault Refusal :=
  if s.vs = .loading then
    match verdict s with
    | .error e => .fault e
    | .ok f => if f = .ok then .next (succeed { s with vs := .valid } 0) else .next (failPacket s f)
  else .next (sequenceError s)

end Sys2Proof.Machine
end

