-- ==== Sys2Proof/Machine/System.lean ====
section
/-! DEFINITION. The two commands that compute nothing: NOP and REG.RD (43_system.md R160, R161). Neither writes LST. -/

namespace Sys2Proof.Machine

/-- NOP (43_system.md R160). -/
def execNop (s : State) : Host.Outcome State Fault Refusal :=
  .next (respond s .ok false 0)

/-- REG.RD (43_system.md R161): no state changes, the response carries the register. -/
def execRegRd (r : RegName) (s : State) : Host.Outcome State Fault Refusal :=
  .next (respond s .ok false (registerValue r s))

end Sys2Proof.Machine
end

