-- ==== Sys2Proof/Machine/Dispatch.lean ====
section
/-! DEFINITION. One arm per command (30_encoding.md R62), each one call of the command's meaning. -/

namespace Sys2Proof.Machine

def exec (i : Instr) (s : State) : Host.Outcome State Fault Refusal :=
  match i with
  | .nop => Sys2Proof.Machine.execNop s
  | .crcClr => Sys2Proof.Machine.execCrcClr s
  | .crcUpd b => Sys2Proof.Machine.execCrcUpd b s
  | .crcRd => Sys2Proof.Machine.execCrcRd s
  | .crcCmp hi lo => Sys2Proof.Machine.execCrcCmp hi lo s
  | .pktClr k => Sys2Proof.Machine.execPktClr k s
  | .pktPush b => Sys2Proof.Machine.execPktPush b s
  | .pktVal => Sys2Proof.Machine.execPktVal s
  | .fldDec off fmt sent conv pdiv => Sys2Proof.Machine.execFldDec off fmt sent conv pdiv s
  | .regRd r => Sys2Proof.Machine.execRegRd r s

end Sys2Proof.Machine
end

