-- ==== Sys2Proof/Machine/Step.lean ====
section
/-! DEFINITION. One step (00_scope.md R8): the block takes the host's next input; a command word is decoded and
executed, an illegal word is answered IllegalCommand (60_exceptions.md R179), the reset input resets
(70_reset_and_hazards.md R190). With nothing presented the block does nothing on its own (log 2). -/

namespace Sys2Proof.Machine

/-- One step of the block (00_scope.md R8). -/
def step (s : State) : Host.Outcome State Fault Refusal :=
  match takeInput s with
  | none => .next s
  | some (.reset, s') => .next (assertReset s')
  | some (.command w, s') =>
    match decode w with
    | .ok i => exec i s'
    | .error _ => .next (illegalCommand s')

/-- `s` with the word whose low `nbits` bits are those of `w` presented as the host's next input (log 1). -/
def State.withFetchWord (s : State) (nbits w : Nat) : State :=
  presentWord s (BitVec.ofNat 32 (w % 2 ^ nbits))

end Sys2Proof.Machine
end

