-- ==== Sys2Proof/Machine/Pseudo.lean ====
section
/-! DEFINITION. The pseudo-commands of 30_encoding.md R70, each as the commands it expands to. -/

namespace Sys2Proof.Machine

/-- CRC.MSG b0 ... bn: CRC.CLR, then one CRC.UPD per byte (30_encoding.md R70). -/
def crcMsg (bytes : List Byte) : List Instr := .crcClr :: bytes.map .crcUpd

/-- CRC.CHK hi lo: CRC.CMP of the two wire bytes (30_encoding.md R70). -/
def crcChk (hi lo : Byte) : List Instr := [.crcCmp hi lo]

/-- PKT.LOAD kind b0 ... bn: PKT.CLR, one PKT.PUSH per byte, PKT.VAL (30_encoding.md R70). -/
def pktLoad (k : Kind) (bytes : List Byte) : List Instr :=
  .pktClr k :: (bytes.map .pktPush ++ [.pktVal])

end Sys2Proof.Machine
end

