-- ==== Sys2Proof/Safety.lean ====
section
/-! DEFINITION. The terms the statements use: the invariant of every reachable state (10_state.md R27), and the rules of
the spec that a statement compares the machine with, written from the spec's text and not from the machine's
definitions (illegal words, the verdict on a packet's bytes, the bit-serial CRC, the bytes fed to the CRC engine). -/

namespace Sys2Proof

open Sys2Proof.Machine

/-! ### The invariant -/

/-- The bytes of PKT that have a value are exactly those at offsets 0 to min(LEN, 438) - 1, listed in rising order
(20_memory.md R50). -/
abbrev bufferHoldsPushedBytes (s : State) : Prop :=
  s.pkt.map Prod.fst = List.range (min s.len.toNat 438)

/-- The bytes pushed so far, in order. -/
def packetBytes (s : State) : List Byte := s.pkt.map Prod.snd

/-- What holds in every reachable state (10_state.md R27). Items 1 and 7 hold by the types of VS and LST. -/
structure Inv (s : State) : Prop where
  /-- 20_memory.md R50 -/
  buffer : bufferHoldsPushedBytes s
  /-- item 2: FAILCODE is 0 exactly when VS is not FAILED -/
  failcodeZero : s.failcode = .ok ↔ s.vs ≠ .failed
  /-- item 2: a FAILED packet's FAILCODE is 1 to 6 -/
  failcodeRange : s.vs = .failed → 1 ≤ (statusCode s.failcode).toNat ∧ (statusCode s.failcode).toNat ≤ 6
  /-- item 3: a VALID packet passes every check of PKT.VAL, the length's among them -/
  validated : s.vs = .valid → verdict s = .ok .ok
  /-- item 4 -/
  absentNoResult : s.abs = true → s.res = 0
  /-- item 5 -/
  loadingCleared : s.vs = .loading → s.raw = 0 ∧ s.res = 0 ∧ s.abs = false
  /-- item 6 -/
  resRange : -2 ^ 32 < s.res.toInt ∧ s.res.toInt < 2 ^ 32
  /-- 00_scope.md R5: TYPE_OFF lies in its range -/
  parameters : s.cfg.inRange

/-- `k` steps that never stop. -/
abbrev runsSafely (k : Nat) (s : State) : Prop := ∃ t, Host.Core.run core k s = .next t

/-! ### Illegal words -/

/-- `CMD[hi:lo]` as a number (00_scope.md R6). -/
abbrev wordBits (w : CmdWord) (hi lo : Nat) : Nat := w.toNat / 2 ^ lo % 2 ^ (hi + 1 - lo)

/-- The list of 30_encoding.md R66, item by item. -/
abbrev isIllegalWord (w : CmdWord) : Prop :=
  0xA ≤ wordBits w 31 28
  ∨ (wordBits w 31 28 ∈ [0x0, 0x1, 0x3, 0x7] ∧ wordBits w 27 0 ≠ 0)
  ∨ (wordBits w 31 28 ∈ [0x2, 0x6] ∧ wordBits w 27 8 ≠ 0)
  ∨ (wordBits w 31 28 = 0x4 ∧ wordBits w 27 16 ≠ 0)
  ∨ (wordBits w 31 28 = 0x5 ∧ wordBits w 27 2 ≠ 0)
  ∨ (wordBits w 31 28 = 0x8 ∧ wordBits w 27 20 ≠ 0)
  ∨ (wordBits w 31 28 = 0x9 ∧ wordBits w 27 4 ≠ 0)
  ∨ (wordBits w 31 28 = 0x8 ∧ wordBits w 10 9 = 3)
  ∨ (wordBits w 31 28 = 0x8 ∧ 5 ≤ wordBits w 13 11)
  ∨ (wordBits w 31 28 = 0x8 ∧ 7 ≤ wordBits w 17 14)
  ∨ (wordBits w 31 28 = 0x8 ∧ wordBits w 17 14 ∈ [5, 6] ∧ wordBits w 19 18 ≠ 0)
  ∨ (wordBits w 31 28 = 0x8 ∧ wordBits w 17 14 = 6 ∧ wordBits w 10 9 = 1)
  ∨ (wordBits w 31 28 = 0x9 ∧ 5 ≤ wordBits w 3 0)

/-! ### The CRC, bit by bit -/

/-- One shift of the bit-serial CRC (10_state.md R12, 40_crc_engine.md R88). -/
def shiftBit (c : Crc) : Crc := if c.msb then (c <<< 1) ^^^ 0x1021 else c <<< 1

/-- Eight shifts. -/
def shiftByte (c : Crc) : Crc := Nat.repeat shiftBit 8 c

/-- One byte of the bit-serial CRC (40_crc_engine.md R88). -/
def serialByte (acc : Crc) (b : Byte) : Crc := shiftByte (acc ^^^ (b ++ 0#8))

/-- The generation rule of TABLE (10_state.md R12). -/
def generatedEntry (i : Byte) : Crc := shiftByte (i ++ 0#8)

/-- The bytes a sequence of host inputs feeds to the CRC engine: those of its CRC.UPD words, in order. -/
def fedBytes : List HostInput → List Byte
  | [] => []
  | .command w :: es =>
    match decode w with
    | .ok (.crcUpd b) => b :: fedBytes es
    | _ => fedBytes es
  | .reset :: es => fedBytes es

/-! ### The verdict on a packet's bytes -/

/-- The verdict the spec gives on a packet of kind `k` of which `len` bytes were pushed, `bytes` those stored: the code
of the first check that fails (41_packet_validate.md R103 to R108, with the numbers of 20_memory.md R54). -/
def specVerdict (typeOff : Nat) (k : Kind) (len : Nat) (bytes : List Byte) : Status :=
  let loopKind := k = .loop ∨ k = .loop2
  let expected := if loopKind then 99 else if k = .hilow then 438 else 9
  let first := if k = .time then 1 else 0
  if len ≠ expected then .lengthMismatch
  else if k = .time ∧ bytes[0]? ≠ some 0x06 then .commandNotAcknowledged
  else if loopKind ∧ bytes.take 3 ≠ [0x4C, 0x4F, 0x4F] then .tagMismatch
  else if loopKind ∧ bytes[typeOff]? ≠ some (if k = .loop then 0 else 1) then .typeMismatch
  else if (bytes.drop (expected - 2)).map BitVec.toNat
      ≠ [(crc16 ((bytes.take (expected - 2)).drop first)).toNat / 256,
         (crc16 ((bytes.take (expected - 2)).drop first)).toNat % 256] then .checksumMismatch
  else .ok

/-! ### Raw values of a field -/

/-- The raw bits of a field as a number, from its first byte and, for the 2-byte formats, the next
(42_field_decode.md R123). -/
def rawNumber (fmt : Fmt) (lo hi : Byte) : Nat :=
  match fmt with
  | .u8 => lo.toNat
  | .s16le | .u16le => lo.toNat + 256 * hi.toNat

/-- The field's bytes have the values `lo` and, for the 2-byte formats, `hi`. -/
def fieldBytesAre (s : State) (off : Offset) (fmt : Fmt) (lo hi : Byte) : Prop :=
  readByte s.pkt off.toNat = some lo ∧ (fmt = .u8 ∨ readByte s.pkt (off.toNat + 1) = some hi)

/-- The field lies in the payload window of the kind: LOOP and LOOP2 0 to 96, HILOW 0 to 435, TIME 1 to 6
(20_memory.md R54, 42_field_decode.md R122). -/
def insidePayload (k : Kind) (off : Offset) (fmt : Fmt) : Prop :=
  let last := if fmt = .u8 then off.toNat else off.toNat + 1
  match k with
  | .loop | .loop2 => last ≤ 96
  | .hilow => last ≤ 435
  | .time => 1 ≤ off.toNat ∧ last ≤ 6

/-- The raw bits are the pattern the sentinel selector names (42_field_decode.md R125). -/
def isSentinelValue (sent : Sent) (bits : Nat) : Prop :=
  match sent with
  | .noSentinel => False
  | .patFFFF => bits = 0xFFFF
  | .pat7FFF => bits = 0x7FFF
  | .patFF => bits = 0x00FF
  | .patZero => bits = 0x0000

/-- The integer N (42_field_decode.md R126). -/
def fieldInteger (fmt : Fmt) (bits : Nat) : Int :=
  if fmt = .s16le ∧ 32768 ≤ bits then (bits : Int) - 65536 else bits

end Sys2Proof
end

