-- ==== Sys2Proof/Certificates/Slice0/Obligations.lean ====
section
/-! DEFINITION. The statements for the provers, from the numbered rules of spec/. A response that a rule gives is shown
by the list `responses` of the state, the model's way of showing it (log 1). -/

open Sys2Proof Sys2Proof.Machine

/-! ### The command word -/

/-- Every command with legal operands has a word, and the decoder reads the command, with every operand, back from it:
half of the sentence "every command with legal operands has exactly one word", which 30_encoding.md R67 marks as its own
derivation. -/
def Obligations.DecodeOfEncodeIsTheCommand : Prop :=
  ∀ i : Instr, wellFormed i = true → decode (encode i) = .ok i

/-- A legal word spells a command with legal operands and is that command's only word: the rest of the sentences "Two
different legal words never decode to the same command ... exactly one word", which 30_encoding.md R67 marks as its own
derivation. -/
def Obligations.LegalWordIsItsCommandsOnlyWord : Prop :=
  ∀ (w : CmdWord) (i : Instr), decode w = .ok i → wellFormed i = true ∧ encode i = w

/-- 30_encoding.md R66: the list of illegal words is complete; an illegal word's whole effect is LST <- 8 and the response
(8, 0, 0); every other word is some command's. Legality is a condition on the word alone. -/
def Obligations.IllegalWordsAreExactlyThoseListed : Prop :=
  ∀ (w : CmdWord) (s : State) (rest : List HostInput), s.inbox = .command w :: rest →
    (isIllegalWord w →
      step s = .next { s with
        inbox := rest, lst := .illegalCommand, responses := s.responses ++ [⟨.illegalCommand, false, 0⟩] }) ∧
    (¬ isIllegalWord w → ∃ i, decode w = .ok i ∧ step s = exec i { s with inbox := rest })

/-- 30_encoding.md R62: match and mask select the command; FLD.DEC and REG.RD words must also pass the conditions of R66;
opcodes 0xA to 0xF select none. -/
def Obligations.OpcodeMapSelectsTheCommand : Prop :=
  ∀ w : CmdWord,
    (w &&& 0xFFFFFFFF = 0x00000000 ↔ decode w = .ok .nop) ∧
    (w &&& 0xFFFFFFFF = 0x10000000 ↔ decode w = .ok .crcClr) ∧
    (w &&& 0xFFFFFF00 = 0x20000000 ↔ ∃ b, decode w = .ok (.crcUpd b)) ∧
    (w &&& 0xFFFFFFFF = 0x30000000 ↔ decode w = .ok .crcRd) ∧
    (w &&& 0xFFFF0000 = 0x40000000 ↔ ∃ hi lo, decode w = .ok (.crcCmp hi lo)) ∧
    (w &&& 0xFFFFFFFC = 0x50000000 ↔ ∃ k, decode w = .ok (.pktClr k)) ∧
    (w &&& 0xFFFFFF00 = 0x60000000 ↔ ∃ b, decode w = .ok (.pktPush b)) ∧
    (w &&& 0xFFFFFFFF = 0x70000000 ↔ decode w = .ok .pktVal) ∧
    (w &&& 0xFFF00000 = 0x80000000 ∧ ¬ isIllegalWord w ↔
      ∃ off fmt sent conv pdiv, decode w = .ok (.fldDec off fmt sent conv pdiv)) ∧
    (w &&& 0xFFFFFFF0 = 0x90000000 ∧ ¬ isIllegalWord w ↔ ∃ r, decode w = .ok (.regRd r)) ∧
    (0xA0000000 ≤ w.toNat → ∃ e, decode w = .error e)

/-- Words the spec writes out (95_test_vectors.md P1 to P5, V58 to V63) decode to the commands it gives for them. -/
def Obligations.WordsWrittenOutDecode : Prop :=
  decode 0x00000000 = .ok .nop ∧
  decode 0x200000C3 = .ok (.crcUpd 0xC3) ∧
  decode 0x400031C2 = .ok (.crcCmp 0x31 0xC2) ∧
  decode 0x50000003 = .ok (.pktClr .time) ∧
  decode 0x6000007E = .ok (.pktPush 0x7E) ∧
  decode 0x800CE407 = .ok (.fldDec 7 .u16le .patZero .inhg2hpa .by1000) ∧
  decode 0x80045205 = .ok (.fldDec 5 .s16le .pat7FFF .f2c .by10) ∧
  decode 0x8000980E = .ok (.fldDec 14 .u8 .patFF .mph2ms .by1) ∧
  decode 0x90000004 = .ok (.regRd .res)

/-! ### A step -/

/-- The step of a decoded word is the command's meaning, on the state from which the word has been taken (00_scope.md
R8). -/
def Obligations.StepRunsTheDecodedCommand : Prop :=
  ∀ (s : State) (w : CmdWord) (rest : List HostInput) (i : Instr),
    s.inbox = .command w :: rest → decode w = .ok i → step s = exec i { s with inbox := rest }

/-- With nothing presented a step changes nothing: the model's choice (log 2) for "the block does nothing on its own"
(00_scope.md R8). -/
def Obligations.StepWithoutInputChangesNothing : Prop :=
  ∀ s : State, s.inbox = [] → step s = .next s

/-- What a step does depends on the next input alone and not on what waits behind it. The waiting inputs are the model's
(log 1); the sentence is "commands take effect one after another in the order the host presents them" (20_memory.md
R55). -/
def Obligations.WaitingInputsDoNotMatter : Prop :=
  ∀ (s t : State) (e : HostInput) (later other : List HostInput),
    step { s with inbox := e :: later } = .next t →
      t.inbox = later ∧ step { s with inbox := e :: other } = .next { t with inbox := other }

/-- In every state that meets the invariant the step answers a next state: "Every command word has exactly one outcome ...
nothing is left stuck" (00_scope.md R8). That no step there reads a byte without a value is 20_memory.md R50's own
derivation (log 5); that a step with nothing presented answers a state at all is the model's choice (log 2). -/
def Obligations.EveryStepAnswers : Prop :=
  ∀ s : State, Inv s → ∃ t, step s = .next t

/-! ### Reset -/

/-- 70_reset_and_hazards.md R191: the state after the reset input, and State.reset, hold the listed values. -/
def Obligations.ResetLeavesTheListedValues : Prop :=
  (∀ (s : State) (rest : List HostInput), s.inbox = .reset :: rest →
    ∃ t, step s = .next t ∧ t.acc = 0x0000 ∧ t.matchFlag = false ∧ (∀ a, readByte t.pkt a = none) ∧ t.len = 0 ∧
      t.kind = .loop ∧ t.vs = .loading ∧ t.failcode = .ok ∧ t.raw = 0x0000 ∧ t.res = 0 ∧ t.abs = false ∧
      t.lst = .ok ∧ statusView t = 0) ∧
  (State.reset.acc = 0x0000 ∧ State.reset.matchFlag = false ∧ (∀ a, readByte State.reset.pkt a = none) ∧
    State.reset.len = 0 ∧ State.reset.kind = .loop ∧ State.reset.vs = .loading ∧ State.reset.failcode = .ok ∧
    State.reset.raw = 0x0000 ∧ State.reset.res = 0 ∧ State.reset.abs = false ∧ State.reset.lst = .ok ∧
    statusView State.reset = 0)

/-- The reset input produces no response (70_reset_and_hazards.md R190); that it leaves the parameters, what the host has
presented since and the earlier responses is the model's choice (log 3). -/
def Obligations.ResetKeepsParametersAndPort : Prop :=
  ∀ (s : State) (rest : List HostInput), s.inbox = .reset :: rest →
    ∃ t, step s = .next t ∧ t.cfg = s.cfg ∧ t.inbox = rest ∧ t.responses = s.responses

/-- CRC.CLR and PKT.CLR LOOP from any state lead to the reset state, except for MATCH: "The state after reset equals the
state after the command sequence", which 70_reset_and_hazards.md R192 marks as its own derivation. -/
def Obligations.ClearSequenceEqualsReset : Prop :=
  ∀ s : State, ∃ t u, exec .crcClr s = .next t ∧ exec (.pktClr .loop) t = .next u ∧
    u.matchFlag = s.matchFlag ∧
    { u with matchFlag := false, inbox := [], responses := [] } = State.resetWith s.cfg

/-! ### The CRC function -/

/-- The printed entries of TABLE are those the generation rule gives, and they are distinct. 10_state.md R12 marks the rule
as general knowledge and the entries as its own derivation from it (log 10). -/
def Obligations.TableFollowsTheGenerationRule : Prop :=
  (∀ i : Byte, crcTable i = generatedEntry i) ∧ Function.Injective crcTable

/-- 40_crc_engine.md R80: one step, on unbounded integers with the mask the rule writes. -/
def Obligations.CrcStepIsTheTableRule : Prop :=
  ∀ (acc : Crc) (b : Byte),
    (acc.toNat >>> 8) ^^^ b.toNat < 256 ∧
    (crcStep acc b).toNat =
      ((crcTable (BitVec.ofNat 8 ((acc.toNat >>> 8) ^^^ b.toNat))).toNat ^^^ (acc.toNat <<< 8)) &&& 0xFFFF

/-- The small cases: the empty sequence, one byte, a run of zero bytes; all but the first are marked by 40_crc_engine.md
R90 as its own derivation. -/
def Obligations.CrcOfSmallSequences : Prop :=
  crc16 [] = 0x0000 ∧ (∀ b, crc16 [b] = crcTable b) ∧ crc16 [0x00] = 0x0000 ∧ crc16 [0x01] = 0x1021 ∧
  crc16 [0xFF] = 0x1EF0 ∧ crc16 [0x41] = 0x58E5 ∧ (∀ n, crc16 (List.replicate n 0x00) = 0x0000)

/-- The table-driven CRC is the bit-serial one with polynomial 0x1021, for every byte sequence, and its check value is
0x31C3: the law of 40_crc_engine.md R88, which rests on the table's generation rule (general knowledge, log 10). -/
def Obligations.CrcEqualsTheBitSerialCrc : Prop :=
  (∀ bytes : List Byte, crc16 bytes = bytes.foldl serialByte 0) ∧
  crc16 [0x31, 0x32, 0x33, 0x34, 0x35, 0x36, 0x37, 0x38, 0x39] = 0x31C3

/-- A message followed by its own CRC, high byte first, leaves 0: the residue law, which 40_crc_engine.md R89 marks as its
own derivation. -/
def Obligations.CrcResidueIsZero : Prop :=
  ∀ m : List Byte, crc16 (m ++ [(crc16 m).extractLsb' 8 8, (crc16 m).extractLsb' 0 8]) = 0x0000

/-- "Two byte sequences of equal length that differ in exactly one bit have different crc16": the first sentence of
40_crc_engine.md R91, which it marks as its own derivation. -/
def Obligations.SingleBitFlipChangesTheCrc : Prop :=
  ∀ (m : List Byte) (i k : Nat) (b : Byte), m[i]? = some b → k < 8 →
    crc16 (m.set i (b ^^^ (1#8 <<< k))) ≠ crc16 m

/-! ### The CRC engine's commands -/

/-- 40_crc_engine.md R82: CRC.CLR, in every state; nothing but ACC and LST changes. -/
def Obligations.CrcClrClearsTheAccumulator : Prop :=
  decode 0x10000000 = .ok .crcClr ∧
  ∀ s : State, exec .crcClr s = .next { s with
    acc := 0x0000, lst := .ok, responses := s.responses ++ [⟨.ok, false, 0⟩] }

/-- 40_crc_engine.md R83: CRC.UPD, in every state; nothing but ACC and LST changes. -/
def Obligations.CrcUpdFeedsOneByte : Prop :=
  ∀ (b : Byte) (s : State),
    decode (0x20000000 ||| b.setWidth 32) = .ok (.crcUpd b) ∧
    exec (.crcUpd b) s = .next { s with
      acc := crcStep s.acc b, lst := .ok,
      responses := s.responses ++ [⟨.ok, false, BitVec.ofNat 64 (crcStep s.acc b).toNat⟩] }

/-- 40_crc_engine.md R84: CRC.RD answers ACC; nothing but LST changes. -/
def Obligations.CrcRdAnswersTheAccumulator : Prop :=
  decode 0x30000000 = .ok .crcRd ∧
  ∀ s : State, exec .crcRd s = .next { s with
    lst := .ok, responses := s.responses ++ [⟨.ok, false, BitVec.ofNat 64 s.acc.toNat⟩] }

/-- 40_crc_engine.md R85, 30_encoding.md R64: CRC.CMP compares ACC with (HI << 8) | LO; a mismatch is no failure; nothing
but MATCH and LST changes. -/
def Obligations.CrcCmpComparesTheAccumulator : Prop :=
  ∀ (hi lo : Byte) (s : State),
    decode (0x40000000 ||| (hi.setWidth 32 <<< 8) ||| lo.setWidth 32) = .ok (.crcCmp hi lo) ∧
    exec (.crcCmp hi lo) s = .next { s with
      matchFlag := decide (s.acc.toNat = hi.toNat * 256 + lo.toNat), lst := .ok,
      responses := s.responses ++ [⟨.ok, false, if s.acc.toNat = hi.toNat * 256 + lo.toNat then 1 else 0⟩] }

/-- After CRC.CLR and any commands and illegal words among which are the CRC.UPD of some bytes, and no further CRC.CLR or
reset, ACC is the CRC of those bytes, and the run never stops: "Streaming equals the function", which 40_crc_engine.md R86
marks as its own derivation. -/
def Obligations.StreamingEqualsTheCrcFunction : Prop :=
  ∀ (s : State) (inputs : List HostInput), Inv s → s.inbox = .command (encode .crcClr) :: inputs →
    (∀ e ∈ inputs, e ≠ .reset ∧ ∀ w, e = .command w → decode w ≠ .ok .crcClr) →
    ∃ t : State, Host.Core.run core (inputs.length + 1) s = .next t ∧ t.acc = crc16 (fedBytes inputs)

/-! ### Packets -/

/-- 41_packet_validate.md R101: PKT.CLR, in every state: the packet unit is cleared, no byte has a value; ACC and MATCH
stay. -/
def Obligations.PktClrStartsAPacket : Prop :=
  ∀ (k : Kind) (s : State),
    decode (0x50000000 ||| (match k with | .loop => 0 | .loop2 => 1 | .hilow => 2 | .time => 3)) = .ok (.pktClr k) ∧
    ∃ t, exec (.pktClr k) s = .next t ∧ (∀ a, readByte t.pkt a = none) ∧
      t = { s with
        kind := k, len := 0, pkt := [], vs := .loading, failcode := .ok, raw := 0, res := 0, abs := false, lst := .ok,
        responses := s.responses ++ [⟨.ok, false, 0⟩] }

/-- 41_packet_validate.md R102: PKT.PUSH appends while LOADING, storing below offset 438 and counting to 511; otherwise it is
refused and changes nothing but LST. -/
def Obligations.PktPushAppendsOneByte : Prop :=
  ∀ (b : Byte) (s : State),
    decode (0x60000000 ||| b.setWidth 32) = .ok (.pktPush b) ∧
    (s.vs = .loading → exec (.pktPush b) s = .next { s with
      pkt := if s.len.toNat < 438 then storeByte s.pkt s.len.toNat b else s.pkt,
      len := BitVec.ofNat 9 (min (s.len.toNat + 1) 511), lst := .ok,
      responses := s.responses ++ [⟨.ok, false, BitVec.ofNat 64 (min (s.len.toNat + 1) 511)⟩] }) ∧
    (s.vs ≠ .loading → exec (.pktPush b) s = .next { s with
      lst := .sequenceError, responses := s.responses ++ [⟨.sequenceError, false, 0⟩] })

/-- 20_memory.md R49, its first sentence: a PKT.PUSH that is accepted stores its byte at offset LEN when LEN is below 438; every other byte of
PKT, and all of PKT when LEN is 438 or more, reads as before. -/
def Obligations.PktPushStoresOnlyAtLen : Prop :=
  ∀ (b : Byte) (s : State), s.vs = .loading →
    ∃ t, exec (.pktPush b) s = .next t ∧
      (s.len.toNat < 438 → readByte t.pkt s.len.toNat = some b) ∧
      ∀ a, (a ≠ s.len.toNat ∨ 438 ≤ s.len.toNat) → readByte t.pkt a = readByte s.pkt a

/-- 41_packet_validate.md R103 to R110: while LOADING, PKT.VAL answers the code of the first check that fails on the bytes
pushed and makes the packet FAILED, or makes it VALID; otherwise it is refused and changes nothing but LST. -/
def Obligations.PktValAnswersTheFirstFailingCheck : Prop :=
  decode 0x70000000 = .ok .pktVal ∧
  ∀ s : State,
    (s.vs = .loading → bufferHoldsPushedBytes s → s.cfg.inRange →
      let f := specVerdict s.cfg.typeOff s.kind s.len.toNat (packetBytes s)
      exec .pktVal s = .next (
        if f = .ok then { s with
          vs := .valid, lst := .ok, responses := s.responses ++ [⟨.ok, false, 0⟩] }
        else { s with
          vs := .failed, failcode := f, lst := f, responses := s.responses ++ [⟨f, false, 0⟩] })) ∧
    (s.vs ≠ .loading → exec .pktVal s = .next { s with
      lst := .sequenceError, responses := s.responses ++ [⟨.sequenceError, false, 0⟩] })

/-- 41_packet_validate.md R111: PKT.VAL neither reads nor writes ACC and MATCH. -/
def Obligations.PktValIgnoresTheCrcRegisters : Prop :=
  ∀ (s t : State) (a : Crc) (m : Bool), exec .pktVal s = .next t →
    t.acc = s.acc ∧ t.matchFlag = s.matchFlag ∧
    exec .pktVal { s with acc := a, matchFlag := m } = .next { t with acc := a, matchFlag := m }

/-- PKT.LOAD of any bytes under any kind, from any state: the buffer holds the first 438 of them, LEN counts them to 511, and
the packet is VALID exactly when the spec's checks pass, else FAILED with the first failing code (30_encoding.md R70,
41_packet_validate.md R102 to R110). -/
def Obligations.LoadedPacketGetsTheSpecsVerdict : Prop :=
  ∀ (k : Kind) (bytes : List Byte) (s : State) (rest : List HostInput), s.cfg.inRange →
    s.inbox = (pktLoad k bytes).map (fun i => .command (encode i)) ++ rest →
    ∃ t : State, Host.Core.run core (bytes.length + 2) s = .next t ∧
      t.inbox = rest ∧ t.kind = k ∧ t.len.toNat = min bytes.length 511 ∧
      (∀ a, readByte t.pkt a = (bytes.take 438)[a]?) ∧
      t.failcode = specVerdict s.cfg.typeOff k (min bytes.length 511) (bytes.take 438) ∧
      t.vs = (if t.failcode = .ok then .valid else .failed) ∧
      t.responses.getLast? = some ⟨t.failcode, false, 0⟩ ∧
      t.acc = s.acc ∧ t.matchFlag = s.matchFlag

/-- Flipping any single bit of a packet that validates makes PKT.VAL reject it: with code 2 in the acknowledgment byte, 3 in
the tag, 4 in the type byte and 5 everywhere else (90_conflicts.md C5). -/
def Obligations.SingleBitFlipRejectsThePacket : Prop :=
  ∀ (s t : State) (i k : Nat) (b : Byte), Inv s → s.vs = .loading → exec .pktVal s = .next t → t.vs = .valid →
    readByte s.pkt i = some b → k < 8 →
    ∃ u, exec .pktVal { s with pkt := storeByte s.pkt i (b ^^^ (1#8 <<< k)) } = .next u ∧ u.vs = .failed ∧
      u.failcode =
        (if s.kind = .time ∧ i = 0 then .commandNotAcknowledged
         else if (s.kind = .loop ∨ s.kind = .loop2) ∧ i < 3 then .tagMismatch
         else if (s.kind = .loop ∨ s.kind = .loop2) ∧ i = s.cfg.typeOff then .typeMismatch
         else .checksumMismatch)

/-! ### Field decode -/

/-- 42_field_decode.md R121: outside VALID, FLD.DEC is refused and changes nothing but LST, whatever the descriptor. -/
def Obligations.FldDecIsRefusedUnlessValid : Prop :=
  ∀ (off : Offset) (fmt : Fmt) (sent : Sent) (conv : Conv) (pdiv : Pdiv) (s : State), s.vs ≠ .valid →
    exec (.fldDec off fmt sent conv pdiv) s = .next { s with
      lst := .sequenceError, responses := s.responses ++ [⟨.sequenceError, false, 0⟩] }

/-- 42_field_decode.md R122: a field not wholly inside the payload window fails the packet with code 6 and zeroes RAW, RES
and ABS; no byte is read. -/
def Obligations.FldDecOutsideTheWindowFailsThePacket : Prop :=
  ∀ (off : Offset) (fmt : Fmt) (sent : Sent) (conv : Conv) (pdiv : Pdiv) (s : State), s.vs = .valid →
    ¬ insidePayload s.kind off fmt →
    exec (.fldDec off fmt sent conv pdiv) s = .next { s with
      vs := .failed, failcode := .structuralDecodeError, raw := 0, res := 0, abs := false,
      lst := .structuralDecodeError, responses := s.responses ++ [⟨.structuralDecodeError, false, 0⟩] }

/-- 42_field_decode.md R125: a field inside the window is absent if and only if its raw bits are the selected pattern, and
then RAW is the bits, ABS 1, RES 0, the response (0, 1, 0), whatever the conversion; VS stays VALID either way. -/
def Obligations.FldDecIsAbsentExactlyOnTheSentinel : Prop :=
  ∀ (off : Offset) (fmt : Fmt) (sent : Sent) (conv : Conv) (pdiv : Pdiv) (s : State) (lo hi : Byte),
    s.vs = .valid → insidePayload s.kind off fmt → fieldBytesAre s off fmt lo hi →
    ∃ t, exec (.fldDec off fmt sent conv pdiv) s = .next t ∧ t.vs = .valid ∧
      (t.abs = true ↔ isSentinelValue sent (rawNumber fmt lo hi)) ∧
      (isSentinelValue sent (rawNumber fmt lo hi) → t = { s with
        raw := BitVec.ofNat 16 (rawNumber fmt lo hi), abs := true, res := 0, lst := .ok,
        responses := s.responses ++ [⟨.ok, true, 0⟩] })

/-- 42_field_decode.md R123, R126, R139: a field inside the window that is no sentinel is converted: RAW the bits, RES and
DATA the conversion of N / P, ABS 0; nothing else but LST changes. -/
def Obligations.FldDecConvertsTheField : Prop :=
  ∀ (off : Offset) (fmt : Fmt) (sent : Sent) (conv : Conv) (pdiv : Pdiv) (s : State) (lo hi : Byte),
    s.vs = .valid → insidePayload s.kind off fmt → fieldBytesAre s off fmt lo hi →
    ¬ isSentinelValue sent (rawNumber fmt lo hi) →
    let p : Int := match pdiv with | .by1 => 1 | .by10 => 10 | .by100 => 100 | .by1000 => 1000
    let r := convert s.cfg.roundTie conv (fieldInteger fmt (rawNumber fmt lo hi)) p
    exec (.fldDec off fmt sent conv pdiv) s = .next { s with
      raw := BitVec.ofNat 16 (rawNumber fmt lo hi), res := BitVec.ofInt 64 r, abs := false, lst := .ok,
      responses := s.responses ++ [⟨.ok, false, BitVec.ofInt 64 r⟩] }

/-- "Fields are independent", which 42_field_decode.md R140 marks as its own derivation: a FLD.DEC that succeeds or finds
absence changes only RAW, RES, ABS and LST, and its outcome on a
VALID packet depends only on the packet's bytes, KIND and the descriptor (and the instance's parameters). -/
def Obligations.FieldsAreIndependent : Prop :=
  ∀ (off : Offset) (fmt : Fmt) (sent : Sent) (conv : Conv) (pdiv : Pdiv) (s u t : State),
    s.vs = .valid → u.vs = .valid → u.pkt = s.pkt → u.kind = s.kind → u.cfg = s.cfg →
    exec (.fldDec off fmt sent conv pdiv) s = .next t →
    ∃ (v : State) (r : Response), exec (.fldDec off fmt sent conv pdiv) u = .next v ∧
      t.responses = s.responses ++ [r] ∧ v.responses = u.responses ++ [r] ∧
      v.raw = t.raw ∧ v.res = t.res ∧ v.abs = t.abs ∧ v.vs = t.vs ∧
      (r.st = .ok → t = { s with
        raw := t.raw, res := t.res, abs := t.abs, lst := .ok, responses := s.responses ++ [r] })

/-- The document's invariant (10_state.md R16, 42_field_decode.md R121): in a state that meets the invariant, a FLD.DEC that
answers OK has decoded a packet whose bytes pass every check of PKT.VAL. -/
def Obligations.OnlyValidatedBytesAreDecoded : Prop :=
  ∀ (off : Offset) (fmt : Fmt) (sent : Sent) (conv : Conv) (pdiv : Pdiv) (s t : State) (r : Response), Inv s →
    exec (.fldDec off fmt sent conv pdiv) s = .next t → t.responses = s.responses ++ [r] → r.st = .ok →
    specVerdict s.cfg.typeOff s.kind s.len.toNat (packetBytes s) = .ok

/-! ### The conversions -/

/-- 42_field_decode.md R129: `rnd` is a nearest integer, a tie goes to the even neighbour or away from zero as the parameter
says, and it is symmetric. -/
def Obligations.RoundingIsToTheNearest : Prop :=
  ∀ (tie : RoundTie) (num den : Int), 0 < den →
    2 * |rnd tie num den * den - num| ≤ den ∧
    (2 * |rnd tie num den * den - num| = den →
      (tie = .halfEven → rnd tie num den % 2 = 0) ∧ (tie = .halfAway → |num| < |rnd tie num den * den|)) ∧
    rnd tie (-num) den = - rnd tie num den

/-- 42_field_decode.md R130: RAW is exact, N * (1000 / P), under either tie rule. -/
def Obligations.RawConversionIsExact : Prop :=
  ∀ (tie : RoundTie) (n : Int) (pdiv : Pdiv), convert tie .raw n (divisor pdiv) = n * (1000 / divisor pdiv)

/-- 42_field_decode.md R131 to R134: each scaled conversion is the rounder on the rule's fraction, under either tie rule,
and so the integer of thousandths nearest to the exact value: (N / P - 32) * 5 / 9, N / P * 0.44704, N / P * 33.8639,
N / P * 0.254. F2C and MPH2MS never meet a tie; which neighbour INHG2HPA and CLICKS2MM give at one is the rounder's tie
rule (R129). -/
def Obligations.ScaledConversionsAreNearestThousandths : Prop :=
  ∀ (tie : RoundTie) (n : Int) (pdiv : Pdiv),
    convert tie .f2c n (divisor pdiv) = rnd tie ((n - 32 * divisor pdiv) * 5000) (9 * divisor pdiv) ∧
    convert tie .mph2ms n (divisor pdiv) = rnd tie (n * 44704) (100 * divisor pdiv) ∧
    convert tie .inhg2hpa n (divisor pdiv) = rnd tie (n * 338639) (10 * divisor pdiv) ∧
    convert tie .clicks2mm n (divisor pdiv) = rnd tie (n * 254) (divisor pdiv) ∧
    2 * |convert tie .f2c n (divisor pdiv) * (9 * divisor pdiv) - (n - 32 * divisor pdiv) * 5000| < 9 * divisor pdiv ∧
    2 * |convert tie .mph2ms n (divisor pdiv) * (100 * divisor pdiv) - n * 44704| < 100 * divisor pdiv ∧
    2 * |convert tie .inhg2hpa n (divisor pdiv) * (10 * divisor pdiv) - n * 338639| ≤ 10 * divisor pdiv ∧
    2 * |convert tie .clicks2mm n (divisor pdiv) * divisor pdiv - n * 254| ≤ divisor pdiv

/-- The exact ties of each conversion, and that the tie rule changes a result on those inputs only: 42_field_decode.md R142,
which marks the list as its own derivation. Stated for every integer N. -/
def Obligations.TieRuleMattersOnlyWhereListed : Prop :=
  ∀ (n : Int) (pdiv : Pdiv),
    let p := divisor pdiv
    2 * ((1000 * n) % p) ≠ p ∧
    2 * (((n - 32 * p) * 5000) % (9 * p)) ≠ 9 * p ∧
    2 * ((n * 44704) % (100 * p)) ≠ 100 * p ∧
    (2 * ((n * 338639) % (10 * p)) = 10 * p ↔ n % (10 * p) = 5 * p) ∧
    (2 * ((n * 254) % p) = p ↔ (p = 100 ∧ n % 50 = 25) ∨ (p = 1000 ∧ n % 500 = 250)) ∧
    ∀ conv, convert .halfEven conv n p ≠ convert .halfAway conv n p →
      (conv = .inhg2hpa ∧ n % (10 * p) = 5 * p) ∨
      (conv = .clicks2mm ∧ ((p = 100 ∧ n % 50 = 25) ∨ (p = 1000 ∧ n % 500 = 250)))

/-- COMPASS is the formula of 42_field_decode.md R135, and the nearest multiple of 22.5 degrees, wrapped modulo 16, never a
tie, which R135 marks as its own derivation. -/
def Obligations.CompassIsTheNearestSector : Prop :=
  ∀ (tie : RoundTie) (n p : Int),
    convert tie .compass n p = ((4 * n + 45) / 90) % 16 ∧
    0 ≤ convert tie .compass n p ∧ convert tie .compass n p ≤ 15 ∧
    ∃ k : Int, convert tie .compass n p = k % 16 ∧ 2 * |2 * n - 45 * k| < 45

/-- 42_field_decode.md R137: HHMM packs hour N div 100 and minute N mod 100 as (hour << 8) | minute, without a range check. -/
def Obligations.TimeCodePacksHourAndMinute : Prop :=
  ∀ (tie : RoundTie) (n : Nat) (p : Int),
    convert tie .hhmm n p = ((n / 100) <<< 8 ||| n % 100 : Nat) ∧
    convert tie .hhmm n p = 256 * (n / 100 : Nat) + (n % 100 : Nat) ∧
    (n ≤ 65535 → n / 100 ≤ 655) ∧ n % 100 ≤ 99

/-- The largest magnitude of each conversion, each reached, and that every result fits RES: 42_field_decode.md R141, which
marks them as its own derivation. -/
def Obligations.ResultsFitTheResultRegister : Prop :=
  (∀ (tie : RoundTie) (conv : Conv) (n : Int) (pdiv : Pdiv), -32768 ≤ n → n ≤ 65535 → (conv = .hhmm → 0 ≤ n) →
    let r := convert tie conv n (divisor pdiv)
    |r| ≤ (match conv with
      | .raw => 65535000
      | .f2c => 36390556
      | .mph2ms => 29296766
      | .inhg2hpa => match tie with | .halfEven => 2219270686 | .halfAway => 2219270687
      | .clicks2mm => 16645890
      | .compass => 15
      | .hhmm => 167715) ∧
    -2 ^ 32 < r ∧ r < 2 ^ 32 ∧ (BitVec.ofInt 64 r).toInt = r) ∧
  convert .halfEven .raw 65535 1 = 65535000 ∧ convert .halfEven .f2c 65535 1 = 36390556 ∧
  convert .halfEven .mph2ms 65535 1 = 29296766 ∧ convert .halfEven .inhg2hpa 65535 1 = 2219270686 ∧
  convert .halfAway .inhg2hpa 65535 1 = 2219270687 ∧ convert .halfEven .clicks2mm 65535 1 = 16645890 ∧
  convert .halfEven .compass 348 1 = 15 ∧ convert .halfEven .hhmm 65535 1 = 167715

/-! ### System commands and the STATUS view -/

/-- 43_system.md R160: NOP answers (0, 0, 0) and writes no register, LST neither; any other word with OP = 0 is illegal. -/
def Obligations.NopOnlyAnswers : Prop :=
  decode 0x00000000 = .ok .nop ∧
  (∀ w : CmdWord, w.toNat < 0x10000000 → w ≠ 0x00000000 → ∃ e, decode w = .error e) ∧
  ∀ s : State, exec .nop s = .next { s with responses := s.responses ++ [⟨.ok, false, 0⟩] }

/-- 43_system.md R161: REG.RD answers the register's value, zero-extended (10_state.md R24), and changes no register; the
numbers 5 to 15 are illegal. -/
def Obligations.RegRdAnswersTheRegister : Prop :=
  (∀ n : BitVec 4, 5 ≤ n.toNat → ∃ e, decode (0x90000000 ||| n.setWidth 32) = .error e) ∧
  ∀ (r : RegName) (s : State),
    decode (0x90000000 ||| (match r with | .acc => 0 | .status => 1 | .len => 2 | .raw => 3 | .res => 4))
      = .ok (.regRd r) ∧
    exec (.regRd r) s = .next { s with
      responses := s.responses ++ [⟨.ok, false,
        match r with
        | .acc => BitVec.ofNat 64 s.acc.toNat
        | .status => statusView s
        | .len => BitVec.ofNat 64 s.len.toNat
        | .raw => BitVec.ofNat 64 s.raw.toNat
        | .res => s.res⟩] }

/-- 10_state.md R23: the STATUS view holds LST in 3:0, VS in 5:4, KIND in 7:6, ABS in 8, MATCH in 9, FAILCODE in 13:10 and
zero above, the codes with the numbers of 60_exceptions.md R171. -/
def Obligations.StatusViewPacksTheSmallRegisters : Prop :=
  ∀ s : State,
    (statusView s).toNat % 16 = (match s.lst with
      | .ok => 0
      | .lengthMismatch => 1
      | .commandNotAcknowledged => 2
      | .tagMismatch => 3
      | .typeMismatch => 4
      | .checksumMismatch => 5
      | .structuralDecodeError => 6
      | .sequenceError => 7
      | .illegalCommand => 8) ∧
    (statusView s).toNat / 16 % 4 = (match s.vs with | .loading => 0 | .valid => 1 | .failed => 2) ∧
    (statusView s).toNat / 64 % 4 = (match s.kind with | .loop => 0 | .loop2 => 1 | .hilow => 2 | .time => 3) ∧
    (statusView s).toNat / 256 % 2 = (if s.abs then 1 else 0) ∧
    (statusView s).toNat / 512 % 2 = (if s.matchFlag then 1 else 0) ∧
    (statusView s).toNat / 1024 % 16 = (match s.failcode with
      | .ok => 0
      | .lengthMismatch => 1
      | .commandNotAcknowledged => 2
      | .tagMismatch => 3
      | .typeMismatch => 4
      | .checksumMismatch => 5
      | .structuralDecodeError => 6
      | .sequenceError => 7
      | .illegalCommand => 8) ∧
    (statusView s).toNat < 2 ^ 14

/-! ### Codes, sequencing, frames -/

/-- 10_state.md R16: the transitions of VS, by the next input; a command that the table refuses answers SequenceError. -/
def Obligations.SequencingFollowsTheTable : Prop :=
  ∀ (s t : State) (e : HostInput) (rest : List HostInput), s.inbox = e :: rest → step s = .next t →
    match e with
    | .reset => t.vs = .loading
    | .command w =>
      match decode w with
      | .error _ => t.vs = s.vs
      | .ok (.pktClr _) => t.vs = .loading
      | .ok (.pktPush _) => t.vs = s.vs ∧ (s.vs ≠ .loading → t.lst = .sequenceError)
      | .ok .pktVal =>
        (s.vs = .loading → ∃ f, verdict s = .ok f ∧ t.vs = (if f = .ok then .valid else .failed)) ∧
        (s.vs ≠ .loading → t.vs = s.vs ∧ t.lst = .sequenceError)
      | .ok (.fldDec off fmt _ _ _) =>
        (s.vs = .valid → (insidePayload s.kind off fmt → t.vs = .valid) ∧
          (¬ insidePayload s.kind off fmt → t.vs = .failed)) ∧
        (s.vs ≠ .valid → t.vs = s.vs ∧ t.lst = .sequenceError)
      | .ok .nop | .ok .crcClr | .ok (.crcUpd _) | .ok .crcRd | .ok (.crcCmp _ _) | .ok (.regRd _) => t.vs = s.vs

/-- In FAILED every command but PKT.CLR answers and leaves VS and FAILCODE as they are (60_exceptions.md R183), and the code
is SequenceError for PKT.PUSH, PKT.VAL and FLD.DEC and OK for the others (R184, which marks it as its own derivation). -/
def Obligations.FailedPacketStaysFailedUntilPktClr : Prop :=
  ∀ (i : Instr) (s : State), s.vs = .failed → (∀ k, i ≠ .pktClr k) →
    ∃ (t : State) (r : Response), exec i s = .next t ∧ t.vs = .failed ∧ t.failcode = s.failcode ∧
      t.responses = s.responses ++ [r] ∧
      r.st = (match i with
        | .pktPush _ | .pktVal | .fldDec _ _ _ _ _ => .sequenceError
        | .nop | .crcClr | .crcUpd _ | .crcRd | .crcCmp _ _ | .pktClr _ | .regRd _ => .ok)

/-- 30_encoding.md R71, 10_state.md R22: every command gives one response; a failing one carries no flag and no data; only a
FLD.DEC answers ABS = 1; LST takes the response's status, except after NOP and REG.RD. -/
def Obligations.EveryCommandAnswersOnceAndSetsLst : Prop :=
  ∀ (i : Instr) (s t : State), exec i s = .next t →
    ∃ r : Response, t.responses = s.responses ++ [r] ∧
      (r.st ≠ .ok → r.abs = false ∧ r.data = 0) ∧
      (r.abs = true → r.data = 0 ∧ ∃ off fmt sent conv pdiv, i = .fldDec off fmt sent conv pdiv) ∧
      t.lst = (match i with
        | .nop | .regRd _ => s.lst
        | .crcClr | .crcUpd _ | .crcRd | .crcCmp _ _ | .pktClr _ | .pktPush _ | .pktVal | .fldDec _ _ _ _ _ => r.st)

/-- 60_exceptions.md R171: which command, on which kind, answers which code, and what VS is after it. -/
def Obligations.StatusCodesComeFromTheirCommands : Prop :=
  ∀ (i : Instr) (s t : State) (r : Response), exec i s = .next t → t.responses = s.responses ++ [r] →
    match r.st with
    | .ok => True
    | .lengthMismatch | .checksumMismatch => i = .pktVal ∧ t.vs = .failed ∧ t.failcode = r.st
    | .commandNotAcknowledged => i = .pktVal ∧ s.kind = .time ∧ t.vs = .failed ∧ t.failcode = r.st
    | .tagMismatch | .typeMismatch =>
      i = .pktVal ∧ (s.kind = .loop ∨ s.kind = .loop2) ∧ t.vs = .failed ∧ t.failcode = r.st
    | .structuralDecodeError =>
      (∃ off fmt sent conv pdiv, i = .fldDec off fmt sent conv pdiv) ∧ t.vs = .failed ∧ t.failcode = r.st
    | .sequenceError =>
      ((∃ b, i = .pktPush b) ∨ i = .pktVal ∨ ∃ off fmt sent conv pdiv, i = .fldDec off fmt sent conv pdiv) ∧
        t.vs = s.vs ∧ t.failcode = s.failcode
    | .illegalCommand => False

/-- 10_state.md R10, column "written by": each item of the state, every byte of PKT among them, is changed only by the
commands listed for it; the parameters by none (R24). -/
def Obligations.OnlyTheListedCommandsWriteEachItem : Prop :=
  ∀ (i : Instr) (s t : State), exec i s = .next t →
    (t.acc ≠ s.acc → i = .crcClr ∨ ∃ b, i = .crcUpd b) ∧
    (t.matchFlag ≠ s.matchFlag → ∃ hi lo, i = .crcCmp hi lo) ∧
    (∀ a, readByte t.pkt a ≠ readByte s.pkt a →
      (∃ k, i = .pktClr k) ∨ ((∃ b, i = .pktPush b) ∧ a = s.len.toNat ∧ a < 438)) ∧
    (t.len ≠ s.len → (∃ k, i = .pktClr k) ∨ ∃ b, i = .pktPush b) ∧
    (t.kind ≠ s.kind → ∃ k, i = .pktClr k) ∧
    (t.vs ≠ s.vs ∨ t.failcode ≠ s.failcode →
      (∃ k, i = .pktClr k) ∨ i = .pktVal ∨ ∃ off fmt sent conv pdiv, i = .fldDec off fmt sent conv pdiv) ∧
    (t.raw ≠ s.raw ∨ t.res ≠ s.res ∨ t.abs ≠ s.abs →
      (∃ k, i = .pktClr k) ∨ ∃ off fmt sent conv pdiv, i = .fldDec off fmt sent conv pdiv) ∧
    (t.lst ≠ s.lst → i ≠ .nop ∧ ∀ r, i ≠ .regRd r) ∧
    t.cfg = s.cfg ∧ t.inbox = s.inbox

/-! ### Invariants -/

/-- Every step from a state that meets the invariant leads to one that meets it. The invariant's items are those 10_state.md
R27 marks as its own derivation, the buffer of 20_memory.md R50 and the range of TYPE_OFF (log 4, log 5). -/
def Obligations.EveryStepKeepsTheInvariant : Prop :=
  ∀ s t : State, Inv s → step s = .next t → Inv t

/-- The invariant holds after reset, of an instance with any parameters in range, whatever the host then presents. -/
def Obligations.ResetMeetsTheInvariant : Prop :=
  Inv State.reset ∧
  ∀ (c : Config) (inputs : List HostInput), c.inRange → Inv { State.resetWith c with inbox := inputs }

/-- A run of any length from a state that meets the invariant never stops and ends in a state that meets it (00_scope.md R8,
70_reset_and_hazards.md R200). -/
def Obligations.RunsNeverStop : Prop :=
  ∀ (k : Nat) (s : State), Inv s → ∃ t : State, Host.Core.run core k s = .next t ∧ Inv t

/-- Every step keeps the canonical form of the packet buffer, in any state. The form is the model's (log 5). -/
def Obligations.EveryStepKeepsTheBufferCanonical : Prop :=
  ∀ s t : State, Memory.wf s.pkt → step s = .next t → Memory.wf t.pkt
end

