-- ==== Sys2Proof/Laws/Encoding.lean ====
section
/-! SUPPORT. The command word as a number: the fields of a word, the word of a command, a word under the mask of its
row, and the codes of the operand fields both ways. -/

namespace Sys2Proof

theorem toNat_append_eq {n m : Nat} (x : BitVec n) (y : BitVec m) :
    (x ++ y).toNat = x.toNat * 2 ^ m + y.toNat := by
  rw [BitVec.toNat_append, ← Nat.shiftLeft_add_eq_or_of_lt y.isLt, Nat.shiftLeft_eq]

/-- A field of a word as a number (00_scope.md R6). -/
theorem toNat_field (w : CmdWord) (lo n : Nat) : (w.extractLsb' lo n).toNat = w.toNat / 2 ^ lo % 2 ^ n := by
  simp [Nat.shiftRight_eq_div_pow]

/-- A mask of high bits clears the low ones. -/
theorem and_highMask (w : CmdWord) (k : Nat) : w &&& (BitVec.allOnes 32 <<< k) = (w >>> k) <<< k := by
  apply BitVec.eq_of_getLsbD_eq
  intro i hi
  simp only [BitVec.getLsbD_and, BitVec.getLsbD_shiftLeft, BitVec.getLsbD_ushiftRight, BitVec.getLsbD_allOnes]
  by_cases h : i < k
  · simp [h]
  · have : k + (i - k) = i := by omega
    simp only [hi, decide_true, h, decide_false, Bool.not_false, Bool.true_and, this]
    cases hb : w.getLsbD i
    · rfl
    · simp [show i - k < 32 by omega]

/-- A word matches a row whose mask is its high bits exactly when its high bits are the row's. -/
theorem and_highMask_eq_iff (w : CmdWord) (k v : Nat) (hk : k ≤ 32) (hv : v < 2 ^ (32 - k)) :
    w &&& (BitVec.allOnes 32 <<< k) = BitVec.ofNat 32 (v * 2 ^ k) ↔ w.toNat / 2 ^ k = v := by
  rw [and_highMask w k, ← BitVec.toNat_inj]
  have e : 2 ^ 32 = 2 ^ (32 - k) * 2 ^ k := by rw [← pow_add]; congr 1; omega
  have hp : 0 < 2 ^ k := by positivity
  have hw : w.toNat / 2 ^ k < 2 ^ (32 - k) := by
    rw [Nat.div_lt_iff_lt_mul hp, ← e]
    exact w.isLt
  simp only [BitVec.toNat_shiftLeft, BitVec.toNat_ushiftRight, BitVec.toNat_ofNat, Nat.shiftLeft_eq,
    Nat.shiftRight_eq_div_pow]
  rw [Nat.mod_eq_of_lt (by rw [e]; exact Nat.mul_lt_mul_of_pos_right hw hp),
    Nat.mod_eq_of_lt (by rw [e]; exact Nat.mul_lt_mul_of_pos_right hv hp)]
  exact Nat.mul_left_inj (Nat.ne_of_gt hp)

/-! ### The word of a command as a number (30_encoding.md R61) -/

theorem encode_crcUpd_toNat (b : Byte) : (encode (.crcUpd b)).toNat = 0x20000000 + b.toNat := by
  simp only [encode, toNat_append_eq, BitVec.toNat_ofNat]
  omega

theorem encode_crcCmp_toNat (hi lo : Byte) :
    (encode (.crcCmp hi lo)).toNat = 0x40000000 + hi.toNat * 2 ^ 8 + lo.toNat := by
  simp only [encode, toNat_append_eq, BitVec.toNat_ofNat]
  omega

theorem encode_pktClr_toNat (k : Kind) : (encode (.pktClr k)).toNat = 0x50000000 + (kindCode k).toNat := by
  cases k <;> decide

theorem encode_pktPush_toNat (b : Byte) : (encode (.pktPush b)).toNat = 0x60000000 + b.toNat := by
  simp only [encode, toNat_append_eq, BitVec.toNat_ofNat]
  omega

theorem encode_fldDec_toNat (off : Offset) (fmt : Fmt) (sent : Sent) (conv : Conv) (pdiv : Pdiv) :
    (encode (.fldDec off fmt sent conv pdiv)).toNat =
      0x80000000 + (pdivCode pdiv).toNat * 2 ^ 18 + (convCode conv).toNat * 2 ^ 14 + (sentCode sent).toNat * 2 ^ 11
        + (fmtCode fmt).toNat * 2 ^ 9 + off.toNat := by
  simp only [encode, toNat_append_eq, BitVec.toNat_ofNat]
  omega

theorem encode_regRd_toNat (r : RegName) : (encode (.regRd r)).toNat = 0x90000000 + (regCode r).toNat := by
  cases r <;> decide

/-! ### The codes of the operand fields (30_encoding.md R65) -/

@[simp] theorem kindOfCode_kindCode (k : Kind) : kindOfCode (kindCode k) = k := by cases k <;> rfl

@[simp] theorem fmtOfCode_fmtCode (f : Fmt) : fmtOfCode (fmtCode f) = some f := by cases f <;> rfl

@[simp] theorem sentOfCode_sentCode (x : Sent) : sentOfCode (sentCode x) = some x := by cases x <;> rfl

@[simp] theorem convOfCode_convCode (c : Conv) : convOfCode (convCode c) = some c := by cases c <;> rfl

@[simp] theorem pdivOfCode_pdivCode (p : Pdiv) : pdivOfCode (pdivCode p) = p := by cases p <;> rfl

@[simp] theorem regOfCode_regCode (r : RegName) : regOfCode (regCode r) = some r := by cases r <;> rfl

theorem kindCode_kindOfCode (c : BitVec 2) : kindCode (kindOfCode c) = c := by revert c; decide

theorem fmtCode_of_fmtOfCode {c : BitVec 2} {f : Fmt} (h : fmtOfCode c = some f) : fmtCode f = c := by
  revert c; cases f <;> decide

theorem sentCode_of_sentOfCode {c : BitVec 3} {x : Sent} (h : sentOfCode c = some x) : sentCode x = c := by
  revert c; cases x <;> decide

theorem convCode_of_convOfCode {c : BitVec 4} {x : Conv} (h : convOfCode c = some x) : convCode x = c := by
  revert c; cases x <;> decide

theorem pdivCode_pdivOfCode (c : BitVec 2) : pdivCode (pdivOfCode c) = c := by revert c; decide

theorem regCode_of_regOfCode {c : BitVec 4} {r : RegName} (h : regOfCode c = some r) : regCode r = c := by
  revert c; cases r <;> decide

end Sys2Proof
end

