-- ==== Sys2Proof/Laws/State.lean ====
section
/-! SUPPORT. What each shared update leaves in each field of State, true by rfl, so that no later proof unfolds a
record update. -/

namespace Sys2Proof.Machine

/-! ### respond -/

@[simp] theorem respond_acc (s : State) (st : Status) (ab : Bool) (d : Data) :
    (respond s st ab d).acc = s.acc := rfl
@[simp] theorem respond_matchFlag (s : State) (st : Status) (ab : Bool) (d : Data) :
    (respond s st ab d).matchFlag = s.matchFlag := rfl
@[simp] theorem respond_pkt (s : State) (st : Status) (ab : Bool) (d : Data) :
    (respond s st ab d).pkt = s.pkt := rfl
@[simp] theorem respond_len (s : State) (st : Status) (ab : Bool) (d : Data) :
    (respond s st ab d).len = s.len := rfl
@[simp] theorem respond_kind (s : State) (st : Status) (ab : Bool) (d : Data) :
    (respond s st ab d).kind = s.kind := rfl
@[simp] theorem respond_vs (s : State) (st : Status) (ab : Bool) (d : Data) :
    (respond s st ab d).vs = s.vs := rfl
@[simp] theorem respond_failcode (s : State) (st : Status) (ab : Bool) (d : Data) :
    (respond s st ab d).failcode = s.failcode := rfl
@[simp] theorem respond_raw (s : State) (st : Status) (ab : Bool) (d : Data) :
    (respond s st ab d).raw = s.raw := rfl
@[simp] theorem respond_res (s : State) (st : Status) (ab : Bool) (d : Data) :
    (respond s st ab d).res = s.res := rfl
@[simp] theorem respond_abs (s : State) (st : Status) (ab : Bool) (d : Data) :
    (respond s st ab d).abs = s.abs := rfl
@[simp] theorem respond_lst (s : State) (st : Status) (ab : Bool) (d : Data) :
    (respond s st ab d).lst = s.lst := rfl
@[simp] theorem respond_cfg (s : State) (st : Status) (ab : Bool) (d : Data) :
    (respond s st ab d).cfg = s.cfg := rfl
@[simp] theorem respond_inbox (s : State) (st : Status) (ab : Bool) (d : Data) :
    (respond s st ab d).inbox = s.inbox := rfl
@[simp] theorem respond_responses (s : State) (st : Status) (ab : Bool) (d : Data) :
    (respond s st ab d).responses = s.responses ++ [⟨st, ab, d⟩] := rfl

/-! ### succeed -/

@[simp] theorem succeed_acc (s : State) (d : Data) :
    (succeed s d).acc = s.acc := rfl
@[simp] theorem succeed_matchFlag (s : State) (d : Data) :
    (succeed s d).matchFlag = s.matchFlag := rfl
@[simp] theorem succeed_pkt (s : State) (d : Data) :
    (succeed s d).pkt = s.pkt := rfl
@[simp] theorem succeed_len (s : State) (d : Data) :
    (succeed s d).len = s.len := rfl
@[simp] theorem succeed_kind (s : State) (d : Data) :
    (succeed s d).kind = s.kind := rfl
@[simp] theorem succeed_vs (s : State) (d : Data) :
    (succeed s d).vs = s.vs := rfl
@[simp] theorem succeed_failcode (s : State) (d : Data) :
    (succeed s d).failcode = s.failcode := rfl
@[simp] theorem succeed_raw (s : State) (d : Data) :
    (succeed s d).raw = s.raw := rfl
@[simp] theorem succeed_res (s : State) (d : Data) :
    (succeed s d).res = s.res := rfl
@[simp] theorem succeed_abs (s : State) (d : Data) :
    (succeed s d).abs = s.abs := rfl
@[simp] theorem succeed_lst (s : State) (d : Data) :
    (succeed s d).lst = .ok := rfl
@[simp] theorem succeed_cfg (s : State) (d : Data) :
    (succeed s d).cfg = s.cfg := rfl
@[simp] theorem succeed_inbox (s : State) (d : Data) :
    (succeed s d).inbox = s.inbox := rfl
@[simp] theorem succeed_responses (s : State) (d : Data) :
    (succeed s d).responses = s.responses ++ [⟨.ok, false, d⟩] := rfl

/-! ### refuseCommand -/

@[simp] theorem refuseCommand_acc (s : State) (st : Status) :
    (refuseCommand s st).acc = s.acc := rfl
@[simp] theorem refuseCommand_matchFlag (s : State) (st : Status) :
    (refuseCommand s st).matchFlag = s.matchFlag := rfl
@[simp] theorem refuseCommand_pkt (s : State) (st : Status) :
    (refuseCommand s st).pkt = s.pkt := rfl
@[simp] theorem refuseCommand_len (s : State) (st : Status) :
    (refuseCommand s st).len = s.len := rfl
@[simp] theorem refuseCommand_kind (s : State) (st : Status) :
    (refuseCommand s st).kind = s.kind := rfl
@[simp] theorem refuseCommand_vs (s : State) (st : Status) :
    (refuseCommand s st).vs = s.vs := rfl
@[simp] theorem refuseCommand_failcode (s : State) (st : Status) :
    (refuseCommand s st).failcode = s.failcode := rfl
@[simp] theorem refuseCommand_raw (s : State) (st : Status) :
    (refuseCommand s st).raw = s.raw := rfl
@[simp] theorem refuseCommand_res (s : State) (st : Status) :
    (refuseCommand s st).res = s.res := rfl
@[simp] theorem refuseCommand_abs (s : State) (st : Status) :
    (refuseCommand s st).abs = s.abs := rfl
@[simp] theorem refuseCommand_lst (s : State) (st : Status) :
    (refuseCommand s st).lst = st := rfl
@[simp] theorem refuseCommand_cfg (s : State) (st : Status) :
    (refuseCommand s st).cfg = s.cfg := rfl
@[simp] theorem refuseCommand_inbox (s : State) (st : Status) :
    (refuseCommand s st).inbox = s.inbox := rfl
@[simp] theorem refuseCommand_responses (s : State) (st : Status) :
    (refuseCommand s st).responses = s.responses ++ [⟨st, false, 0⟩] := rfl

/-! ### sequenceError -/

@[simp] theorem sequenceError_acc (s : State) :
    (sequenceError s).acc = s.acc := rfl
@[simp] theorem sequenceError_matchFlag (s : State) :
    (sequenceError s).matchFlag = s.matchFlag := rfl
@[simp] theorem sequenceError_pkt (s : State) :
    (sequenceError s).pkt = s.pkt := rfl
@[simp] theorem sequenceError_len (s : State) :
    (sequenceError s).len = s.len := rfl
@[simp] theorem sequenceError_kind (s : State) :
    (sequenceError s).kind = s.kind := rfl
@[simp] theorem sequenceError_vs (s : State) :
    (sequenceError s).vs = s.vs := rfl
@[simp] theorem sequenceError_failcode (s : State) :
    (sequenceError s).failcode = s.failcode := rfl
@[simp] theorem sequenceError_raw (s : State) :
    (sequenceError s).raw = s.raw := rfl
@[simp] theorem sequenceError_res (s : State) :
    (sequenceError s).res = s.res := rfl
@[simp] theorem sequenceError_abs (s : State) :
    (sequenceError s).abs = s.abs := rfl
@[simp] theorem sequenceError_lst (s : State) :
    (sequenceError s).lst = .sequenceError := rfl
@[simp] theorem sequenceError_cfg (s : State) :
    (sequenceError s).cfg = s.cfg := rfl
@[simp] theorem sequenceError_inbox (s : State) :
    (sequenceError s).inbox = s.inbox := rfl
@[simp] theorem sequenceError_responses (s : State) :
    (sequenceError s).responses = s.responses ++ [⟨.sequenceError, false, 0⟩] := rfl

/-! ### illegalCommand -/

@[simp] theorem illegalCommand_acc (s : State) :
    (illegalCommand s).acc = s.acc := rfl
@[simp] theorem illegalCommand_matchFlag (s : State) :
    (illegalCommand s).matchFlag = s.matchFlag := rfl
@[simp] theorem illegalCommand_pkt (s : State) :
    (illegalCommand s).pkt = s.pkt := rfl
@[simp] theorem illegalCommand_len (s : State) :
    (illegalCommand s).len = s.len := rfl
@[simp] theorem illegalCommand_kind (s : State) :
    (illegalCommand s).kind = s.kind := rfl
@[simp] theorem illegalCommand_vs (s : State) :
    (illegalCommand s).vs = s.vs := rfl
@[simp] theorem illegalCommand_failcode (s : State) :
    (illegalCommand s).failcode = s.failcode := rfl
@[simp] theorem illegalCommand_raw (s : State) :
    (illegalCommand s).raw = s.raw := rfl
@[simp] theorem illegalCommand_res (s : State) :
    (illegalCommand s).res = s.res := rfl
@[simp] theorem illegalCommand_abs (s : State) :
    (illegalCommand s).abs = s.abs := rfl
@[simp] theorem illegalCommand_lst (s : State) :
    (illegalCommand s).lst = .illegalCommand := rfl
@[simp] theorem illegalCommand_cfg (s : State) :
    (illegalCommand s).cfg = s.cfg := rfl
@[simp] theorem illegalCommand_inbox (s : State) :
    (illegalCommand s).inbox = s.inbox := rfl
@[simp] theorem illegalCommand_responses (s : State) :
    (illegalCommand s).responses = s.responses ++ [⟨.illegalCommand, false, 0⟩] := rfl

/-! ### failPacket -/

@[simp] theorem failPacket_acc (s : State) (f : Status) :
    (failPacket s f).acc = s.acc := rfl
@[simp] theorem failPacket_matchFlag (s : State) (f : Status) :
    (failPacket s f).matchFlag = s.matchFlag := rfl
@[simp] theorem failPacket_pkt (s : State) (f : Status) :
    (failPacket s f).pkt = s.pkt := rfl
@[simp] theorem failPacket_len (s : State) (f : Status) :
    (failPacket s f).len = s.len := rfl
@[simp] theorem failPacket_kind (s : State) (f : Status) :
    (failPacket s f).kind = s.kind := rfl
@[simp] theorem failPacket_vs (s : State) (f : Status) :
    (failPacket s f).vs = .failed := rfl
@[simp] theorem failPacket_failcode (s : State) (f : Status) :
    (failPacket s f).failcode = f := rfl
@[simp] theorem failPacket_raw (s : State) (f : Status) :
    (failPacket s f).raw = s.raw := rfl
@[simp] theorem failPacket_res (s : State) (f : Status) :
    (failPacket s f).res = s.res := rfl
@[simp] theorem failPacket_abs (s : State) (f : Status) :
    (failPacket s f).abs = s.abs := rfl
@[simp] theorem failPacket_lst (s : State) (f : Status) :
    (failPacket s f).lst = f := rfl
@[simp] theorem failPacket_cfg (s : State) (f : Status) :
    (failPacket s f).cfg = s.cfg := rfl
@[simp] theorem failPacket_inbox (s : State) (f : Status) :
    (failPacket s f).inbox = s.inbox := rfl
@[simp] theorem failPacket_responses (s : State) (f : Status) :
    (failPacket s f).responses = s.responses ++ [⟨f, false, 0⟩] := rfl

/-! ### startPacket -/

@[simp] theorem startPacket_acc (s : State) (k : Kind) :
    (startPacket s k).acc = s.acc := rfl
@[simp] theorem startPacket_matchFlag (s : State) (k : Kind) :
    (startPacket s k).matchFlag = s.matchFlag := rfl
@[simp] theorem startPacket_pkt (s : State) (k : Kind) :
    (startPacket s k).pkt = [] := rfl
@[simp] theorem startPacket_len (s : State) (k : Kind) :
    (startPacket s k).len = 0 := rfl
@[simp] theorem startPacket_kind (s : State) (k : Kind) :
    (startPacket s k).kind = k := rfl
@[simp] theorem startPacket_vs (s : State) (k : Kind) :
    (startPacket s k).vs = .loading := rfl
@[simp] theorem startPacket_failcode (s : State) (k : Kind) :
    (startPacket s k).failcode = .ok := rfl
@[simp] theorem startPacket_raw (s : State) (k : Kind) :
    (startPacket s k).raw = 0 := rfl
@[simp] theorem startPacket_res (s : State) (k : Kind) :
    (startPacket s k).res = 0 := rfl
@[simp] theorem startPacket_abs (s : State) (k : Kind) :
    (startPacket s k).abs = false := rfl
@[simp] theorem startPacket_lst (s : State) (k : Kind) :
    (startPacket s k).lst = s.lst := rfl
@[simp] theorem startPacket_cfg (s : State) (k : Kind) :
    (startPacket s k).cfg = s.cfg := rfl
@[simp] theorem startPacket_inbox (s : State) (k : Kind) :
    (startPacket s k).inbox = s.inbox := rfl
@[simp] theorem startPacket_responses (s : State) (k : Kind) :
    (startPacket s k).responses = s.responses := rfl

/-! ### structuralError -/

@[simp] theorem structuralError_acc (s : State) :
    (structuralError s).acc = s.acc := rfl
@[simp] theorem structuralError_matchFlag (s : State) :
    (structuralError s).matchFlag = s.matchFlag := rfl
@[simp] theorem structuralError_pkt (s : State) :
    (structuralError s).pkt = s.pkt := rfl
@[simp] theorem structuralError_len (s : State) :
    (structuralError s).len = s.len := rfl
@[simp] theorem structuralError_kind (s : State) :
    (structuralError s).kind = s.kind := rfl
@[simp] theorem structuralError_vs (s : State) :
    (structuralError s).vs = .failed := rfl
@[simp] theorem structuralError_failcode (s : State) :
    (structuralError s).failcode = .structuralDecodeError := rfl
@[simp] theorem structuralError_raw (s : State) :
    (structuralError s).raw = 0 := rfl
@[simp] theorem structuralError_res (s : State) :
    (structuralError s).res = 0 := rfl
@[simp] theorem structuralError_abs (s : State) :
    (structuralError s).abs = false := rfl
@[simp] theorem structuralError_lst (s : State) :
    (structuralError s).lst = .structuralDecodeError := rfl
@[simp] theorem structuralError_cfg (s : State) :
    (structuralError s).cfg = s.cfg := rfl
@[simp] theorem structuralError_inbox (s : State) :
    (structuralError s).inbox = s.inbox := rfl
@[simp] theorem structuralError_responses (s : State) :
    (structuralError s).responses = s.responses ++ [⟨.structuralDecodeError, false, 0⟩] := rfl

/-! ### fieldAbsent -/

@[simp] theorem fieldAbsent_acc (s : State) (bits : BitVec 16) :
    (fieldAbsent s bits).acc = s.acc := rfl
@[simp] theorem fieldAbsent_matchFlag (s : State) (bits : BitVec 16) :
    (fieldAbsent s bits).matchFlag = s.matchFlag := rfl
@[simp] theorem fieldAbsent_pkt (s : State) (bits : BitVec 16) :
    (fieldAbsent s bits).pkt = s.pkt := rfl
@[simp] theorem fieldAbsent_len (s : State) (bits : BitVec 16) :
    (fieldAbsent s bits).len = s.len := rfl
@[simp] theorem fieldAbsent_kind (s : State) (bits : BitVec 16) :
    (fieldAbsent s bits).kind = s.kind := rfl
@[simp] theorem fieldAbsent_vs (s : State) (bits : BitVec 16) :
    (fieldAbsent s bits).vs = s.vs := rfl
@[simp] theorem fieldAbsent_failcode (s : State) (bits : BitVec 16) :
    (fieldAbsent s bits).failcode = s.failcode := rfl
@[simp] theorem fieldAbsent_raw (s : State) (bits : BitVec 16) :
    (fieldAbsent s bits).raw = bits := rfl
@[simp] theorem fieldAbsent_res (s : State) (bits : BitVec 16) :
    (fieldAbsent s bits).res = 0 := rfl
@[simp] theorem fieldAbsent_abs (s : State) (bits : BitVec 16) :
    (fieldAbsent s bits).abs = true := rfl
@[simp] theorem fieldAbsent_lst (s : State) (bits : BitVec 16) :
    (fieldAbsent s bits).lst = .ok := rfl
@[simp] theorem fieldAbsent_cfg (s : State) (bits : BitVec 16) :
    (fieldAbsent s bits).cfg = s.cfg := rfl
@[simp] theorem fieldAbsent_inbox (s : State) (bits : BitVec 16) :
    (fieldAbsent s bits).inbox = s.inbox := rfl
@[simp] theorem fieldAbsent_responses (s : State) (bits : BitVec 16) :
    (fieldAbsent s bits).responses = s.responses ++ [⟨.ok, true, 0⟩] := rfl

/-! ### fieldValue -/

@[simp] theorem fieldValue_acc (s : State) (bits : BitVec 16) (r : Int) :
    (fieldValue s bits r).acc = s.acc := rfl
@[simp] theorem fieldValue_matchFlag (s : State) (bits : BitVec 16) (r : Int) :
    (fieldValue s bits r).matchFlag = s.matchFlag := rfl
@[simp] theorem fieldValue_pkt (s : State) (bits : BitVec 16) (r : Int) :
    (fieldValue s bits r).pkt = s.pkt := rfl
@[simp] theorem fieldValue_len (s : State) (bits : BitVec 16) (r : Int) :
    (fieldValue s bits r).len = s.len := rfl
@[simp] theorem fieldValue_kind (s : State) (bits : BitVec 16) (r : Int) :
    (fieldValue s bits r).kind = s.kind := rfl
@[simp] theorem fieldValue_vs (s : State) (bits : BitVec 16) (r : Int) :
    (fieldValue s bits r).vs = s.vs := rfl
@[simp] theorem fieldValue_failcode (s : State) (bits : BitVec 16) (r : Int) :
    (fieldValue s bits r).failcode = s.failcode := rfl
@[simp] theorem fieldValue_raw (s : State) (bits : BitVec 16) (r : Int) :
    (fieldValue s bits r).raw = bits := rfl
@[simp] theorem fieldValue_res (s : State) (bits : BitVec 16) (r : Int) :
    (fieldValue s bits r).res = BitVec.ofInt 64 r := rfl
@[simp] theorem fieldValue_abs (s : State) (bits : BitVec 16) (r : Int) :
    (fieldValue s bits r).abs = false := rfl
@[simp] theorem fieldValue_lst (s : State) (bits : BitVec 16) (r : Int) :
    (fieldValue s bits r).lst = .ok := rfl
@[simp] theorem fieldValue_cfg (s : State) (bits : BitVec 16) (r : Int) :
    (fieldValue s bits r).cfg = s.cfg := rfl
@[simp] theorem fieldValue_inbox (s : State) (bits : BitVec 16) (r : Int) :
    (fieldValue s bits r).inbox = s.inbox := rfl
@[simp] theorem fieldValue_responses (s : State) (bits : BitVec 16) (r : Int) :
    (fieldValue s bits r).responses = s.responses ++ [⟨.ok, false, BitVec.ofInt 64 r⟩] := rfl

/-! ### appendByte -/

@[simp] theorem appendByte_acc (s : State) (b : Byte) :
    (appendByte s b).acc = s.acc := rfl
@[simp] theorem appendByte_matchFlag (s : State) (b : Byte) :
    (appendByte s b).matchFlag = s.matchFlag := rfl
@[simp] theorem appendByte_pkt (s : State) (b : Byte) :
    (appendByte s b).pkt = if s.len.toNat < bufSize then storeByte s.pkt s.len.toNat b else s.pkt := rfl
@[simp] theorem appendByte_len (s : State) (b : Byte) :
    (appendByte s b).len = nextLen s.len := rfl
@[simp] theorem appendByte_kind (s : State) (b : Byte) :
    (appendByte s b).kind = s.kind := rfl
@[simp] theorem appendByte_vs (s : State) (b : Byte) :
    (appendByte s b).vs = s.vs := rfl
@[simp] theorem appendByte_failcode (s : State) (b : Byte) :
    (appendByte s b).failcode = s.failcode := rfl
@[simp] theorem appendByte_raw (s : State) (b : Byte) :
    (appendByte s b).raw = s.raw := rfl
@[simp] theorem appendByte_res (s : State) (b : Byte) :
    (appendByte s b).res = s.res := rfl
@[simp] theorem appendByte_abs (s : State) (b : Byte) :
    (appendByte s b).abs = s.abs := rfl
@[simp] theorem appendByte_lst (s : State) (b : Byte) :
    (appendByte s b).lst = s.lst := rfl
@[simp] theorem appendByte_cfg (s : State) (b : Byte) :
    (appendByte s b).cfg = s.cfg := rfl
@[simp] theorem appendByte_inbox (s : State) (b : Byte) :
    (appendByte s b).inbox = s.inbox := rfl
@[simp] theorem appendByte_responses (s : State) (b : Byte) :
    (appendByte s b).responses = s.responses := rfl

/-! ### presentWord -/

@[simp] theorem presentWord_acc (s : State) (w : CmdWord) :
    (presentWord s w).acc = s.acc := rfl
@[simp] theorem presentWord_matchFlag (s : State) (w : CmdWord) :
    (presentWord s w).matchFlag = s.matchFlag := rfl
@[simp] theorem presentWord_pkt (s : State) (w : CmdWord) :
    (presentWord s w).pkt = s.pkt := rfl
@[simp] theorem presentWord_len (s : State) (w : CmdWord) :
    (presentWord s w).len = s.len := rfl
@[simp] theorem presentWord_kind (s : State) (w : CmdWord) :
    (presentWord s w).kind = s.kind := rfl
@[simp] theorem presentWord_vs (s : State) (w : CmdWord) :
    (presentWord s w).vs = s.vs := rfl
@[simp] theorem presentWord_failcode (s : State) (w : CmdWord) :
    (presentWord s w).failcode = s.failcode := rfl
@[simp] theorem presentWord_raw (s : State) (w : CmdWord) :
    (presentWord s w).raw = s.raw := rfl
@[simp] theorem presentWord_res (s : State) (w : CmdWord) :
    (presentWord s w).res = s.res := rfl
@[simp] theorem presentWord_abs (s : State) (w : CmdWord) :
    (presentWord s w).abs = s.abs := rfl
@[simp] theorem presentWord_lst (s : State) (w : CmdWord) :
    (presentWord s w).lst = s.lst := rfl
@[simp] theorem presentWord_cfg (s : State) (w : CmdWord) :
    (presentWord s w).cfg = s.cfg := rfl
@[simp] theorem presentWord_inbox (s : State) (w : CmdWord) :
    (presentWord s w).inbox = .command w :: s.inbox := rfl
@[simp] theorem presentWord_responses (s : State) (w : CmdWord) :
    (presentWord s w).responses = s.responses := rfl

/-! ### assertReset -/

@[simp] theorem assertReset_acc (s : State) :
    (assertReset s).acc = 0 := rfl
@[simp] theorem assertReset_matchFlag (s : State) :
    (assertReset s).matchFlag = false := rfl
@[simp] theorem assertReset_pkt (s : State) :
    (assertReset s).pkt = [] := rfl
@[simp] theorem assertReset_len (s : State) :
    (assertReset s).len = 0 := rfl
@[simp] theorem assertReset_kind (s : State) :
    (assertReset s).kind = .loop := rfl
@[simp] theorem assertReset_vs (s : State) :
    (assertReset s).vs = .loading := rfl
@[simp] theorem assertReset_failcode (s : State) :
    (assertReset s).failcode = .ok := rfl
@[simp] theorem assertReset_raw (s : State) :
    (assertReset s).raw = 0 := rfl
@[simp] theorem assertReset_res (s : State) :
    (assertReset s).res = 0 := rfl
@[simp] theorem assertReset_abs (s : State) :
    (assertReset s).abs = false := rfl
@[simp] theorem assertReset_lst (s : State) :
    (assertReset s).lst = .ok := rfl
@[simp] theorem assertReset_cfg (s : State) :
    (assertReset s).cfg = s.cfg := rfl
@[simp] theorem assertReset_inbox (s : State) :
    (assertReset s).inbox = s.inbox := rfl
@[simp] theorem assertReset_responses (s : State) :
    (assertReset s).responses = s.responses := rfl

/-! ### The state after reset -/

@[simp] theorem resetWith_acc (c : Config) : (State.resetWith c).acc = 0 := rfl
@[simp] theorem resetWith_matchFlag (c : Config) : (State.resetWith c).matchFlag = false := rfl
@[simp] theorem resetWith_pkt (c : Config) : (State.resetWith c).pkt = [] := rfl
@[simp] theorem resetWith_len (c : Config) : (State.resetWith c).len = 0 := rfl
@[simp] theorem resetWith_kind (c : Config) : (State.resetWith c).kind = .loop := rfl
@[simp] theorem resetWith_vs (c : Config) : (State.resetWith c).vs = .loading := rfl
@[simp] theorem resetWith_failcode (c : Config) : (State.resetWith c).failcode = .ok := rfl
@[simp] theorem resetWith_raw (c : Config) : (State.resetWith c).raw = 0 := rfl
@[simp] theorem resetWith_res (c : Config) : (State.resetWith c).res = 0 := rfl
@[simp] theorem resetWith_abs (c : Config) : (State.resetWith c).abs = false := rfl
@[simp] theorem resetWith_lst (c : Config) : (State.resetWith c).lst = .ok := rfl
@[simp] theorem resetWith_cfg (c : Config) : (State.resetWith c).cfg = c := rfl
@[simp] theorem resetWith_inbox (c : Config) : (State.resetWith c).inbox = [] := rfl
@[simp] theorem resetWith_responses (c : Config) : (State.resetWith c).responses = [] := rfl

end Sys2Proof.Machine
end

