-- ==== Sys2Proof/Laws/Memory.lean ====
section
/-! SUPPORT. The packet buffer: read after write, the canonical form, and the buffer as the list of the bytes pushed.
-/

namespace Sys2Proof.Machine

@[simp] theorem readByte_nil (a : Nat) : readByte [] a = none := rfl

/-- Once for all: a byte written is read back, and every other offset reads as before. -/
theorem readByte_storeByte (m : Memory) (a c : Nat) (b : Byte) :
    readByte (storeByte m a b) c = if c = a then some b else readByte m c := by
  induction m with
  | nil =>
    by_cases h : a = c
    · simp [storeByte, readByte, h]
    · simp [storeByte, readByte, h, Ne.symm h]
  | cons x m ih =>
    obtain ⟨k, d⟩ := x
    by_cases hc : c = a
    · subst hc
      by_cases h1 : c < k
      · simp [storeByte, readByte, h1]
      · by_cases h2 : c = k
        · simp [storeByte, readByte, h2]
        · simp [storeByte, readByte, h1, h2, Ne.symm h2, ih]
    · by_cases h1 : a < k
      · simp [storeByte, readByte, h1, hc, Ne.symm hc]
      · by_cases h2 : a = k
        · subst h2; simp [storeByte, readByte, hc, Ne.symm hc]
        · simp [storeByte, readByte, h1, h2, hc, ih]

theorem readByte_storeByte_same (m : Memory) (a : Nat) (b : Byte) :
    readByte (storeByte m a b) a = some b := by simp [readByte_storeByte]

theorem readByte_storeByte_other (m : Memory) {a c : Nat} (b : Byte) (h : c ≠ a) :
    readByte (storeByte m a b) c = readByte m c := by simp [readByte_storeByte, h]

/-- The offsets a write lists are the old ones and its own. -/
theorem mem_storeByte {m : Memory} {a : Nat} {b : Byte} {x : Host.Cell} (h : x ∈ storeByte m a b) :
    x = (a, b) ∨ x ∈ m := by
  induction m with
  | nil => simpa [storeByte] using h
  | cons y m ih =>
    obtain ⟨k, d⟩ := y
    simp only [storeByte] at h
    split at h
    · simpa using h
    · split at h
      · rcases List.mem_cons.mp h with h | h
        · exact .inl h
        · exact .inr (List.mem_cons_of_mem _ h)
      · rcases List.mem_cons.mp h with h | h
        · exact .inr (by simp [h])
        · rcases ih h with h | h
          · exact .inl h
          · exact .inr (List.mem_cons_of_mem _ h)

/-- A write keeps the canonical form. -/
theorem storeByte_wf {m : Memory} (h : Memory.wf m) (a : Nat) (b : Byte) : Memory.wf (storeByte m a b) := by
  induction m with
  | nil => simp [storeByte, Memory.wf]
  | cons y m ih =>
    obtain ⟨k, d⟩ := y
    have hk := (List.pairwise_cons.mp h).1
    have hm := (List.pairwise_cons.mp h).2
    simp only [storeByte]
    split
    · rename_i h1
      refine List.pairwise_cons.mpr ⟨fun x hx => ?_, h⟩
      rcases List.mem_cons.mp hx with rfl | hx
      · exact h1
      · exact Nat.lt_trans h1 (hk x hx)
    · split
      · rename_i h2
        exact List.pairwise_cons.mpr ⟨fun x hx => by simpa [h2] using hk x hx, hm⟩
      · rename_i h1 h2
        refine List.pairwise_cons.mpr ⟨fun x hx => ?_, ih hm⟩
        rcases mem_storeByte hx with rfl | hx
        · show k < a
          omega
        · exact hk x hx

theorem reset_wf (c : Config) : Memory.wf (State.resetWith c).pkt := by simp [Memory.wf]

/-- Every update of a packet keeps the canonical form. -/
theorem appendByte_wf {s : State} (h : Memory.wf s.pkt) (b : Byte) : Memory.wf (appendByte s b).pkt := by
  rw [appendByte_pkt]
  split
  · exact storeByte_wf h _ _
  · exact h

theorem startPacket_wf (s : State) (k : Kind) : Memory.wf (startPacket s k).pkt := by simp [Memory.wf]

/-! ### The buffer as a list of bytes -/

/-- A write at the offset after the last listed one appends. -/
theorem storeByte_append {m : Memory} {n : Nat} (h : ∀ x ∈ m, x.1 < n) (b : Byte) :
    storeByte m n b = m ++ [(n, b)] := by
  induction m with
  | nil => rfl
  | cons y m ih =>
    obtain ⟨k, d⟩ := y
    have hk : k < n := h (k, d) (by simp)
    have hm := ih (fun x hx => h x (List.mem_cons_of_mem _ hx))
    simp [storeByte, Nat.not_lt_of_gt hk, Nat.ne_of_gt hk, hm]

/-- Where the listed offsets are `a`, `a + 1`, ..., a read is a read of the list of bytes. -/
theorem readByte_of_range' {m : Memory} {a n : Nat} (h : m.map Prod.fst = List.range' a n) (i : Nat) :
    readByte m (a + i) = (m.map Prod.snd)[i]? := by
  induction m generalizing a n i with
  | nil => simp
  | cons y m ih =>
    obtain ⟨k, d⟩ := y
    cases n with
    | zero => simp at h
    | succ n =>
      rw [List.range'_succ] at h
      simp only [List.map_cons, List.cons.injEq] at h
      obtain ⟨hk, hm⟩ := h
      cases i with
      | zero => simp [readByte, hk]
      | succ i =>
        have := ih hm i
        rw [show a + (i + 1) = a + 1 + i by omega]
        simp [readByte, hk, show a ≠ a + 1 + i by omega, this]

/-- Where the listed offsets are 0 to n - 1, a read is a read of the list of bytes. -/
theorem readByte_of_range {m : Memory} {n : Nat} (h : m.map Prod.fst = List.range n) (a : Nat) :
    readByte m a = (m.map Prod.snd)[a]? := by
  have := readByte_of_range' (a := 0) (n := n) (by rw [h, List.range_eq_range']) a
  simpa using this

theorem wf_of_range {m : Memory} {n : Nat} (h : m.map Prod.fst = List.range n) : Memory.wf m := by
  have : (m.map Prod.fst).Pairwise (· < ·) := h ▸ List.pairwise_lt_range
  simpa [Memory.wf, List.pairwise_map] using this

theorem length_of_range {m : Memory} {n : Nat} (h : m.map Prod.fst = List.range n) :
    (m.map Prod.snd).length = n := by
  have := congrArg List.length h
  simpa using this

theorem nextLen_toNat (l : Offset) : (nextLen l).toNat = min (l.toNat + 1) 511 := by
  have := l.isLt
  simp only [nextLen, lenMax, BitVec.toNat_ofNat]
  omega

/-- Once for all: appending a byte lists the next offset while LEN is below 438, and counts. -/
theorem appendByte_range {s : State} (h : s.pkt.map Prod.fst = List.range (min s.len.toNat 438)) (b : Byte) :
    (appendByte s b).pkt.map Prod.fst = List.range (min (appendByte s b).len.toNat 438) ∧
    (appendByte s b).pkt.map Prod.snd
      = if s.len.toNat < 438 then s.pkt.map Prod.snd ++ [b] else s.pkt.map Prod.snd := by
  have hl := s.len.isLt
  rw [appendByte_pkt, appendByte_len, nextLen_toNat]
  by_cases hc : s.len.toNat < 438
  · have hmem : ∀ x ∈ s.pkt, x.1 < s.len.toNat := fun x hx => by
      have : x.1 ∈ s.pkt.map Prod.fst := List.mem_map_of_mem hx
      rw [h, List.mem_range] at this
      omega
    have e1 : min s.len.toNat 438 = s.len.toNat := by omega
    have e2 : min (min (s.len.toNat + 1) 511) 438 = s.len.toNat + 1 := by omega
    rw [e1] at h
    rw [e2, List.range_succ]
    simp [bufSize, hc, storeByte_append hmem, h]
  · have e1 : min (min (s.len.toNat + 1) 511) 438 = 438 := by omega
    have e2 : min s.len.toNat 438 = 438 := by omega
    rw [e2] at h
    simp [bufSize, hc, h, e1]

end Sys2Proof.Machine
end

