-- ==== Sys2Proof/Laws/Ops.lean ====
section
/-! SUPPORT. Once for all, what each shared operation can do: the reads of PKT, the host's next input, the verdict, the
raw bits of a field, the rounder, the CRC fold. -/

namespace Sys2Proof.Machine

/-! ### Reads of PKT -/

theorem readPkt_ok_iff {s : State} {a : Nat} {b : Byte} : readPkt s a = .ok b ↔ readByte s.pkt a = some b := by
  unfold readPkt
  cases readByte s.pkt a <;> simp

theorem readPkt_error_iff {s : State} {a : Nat} {e : Fault} :
    readPkt s a = .error e ↔ readByte s.pkt a = none ∧ e = .byteWithoutValue a := by
  unfold readPkt
  cases readByte s.pkt a <;> simp [eq_comm]

/-- A range read answers exactly the bytes at its offsets. -/
theorem readRange_ok_iff {s : State} {a n : Nat} {bs : List Byte} :
    readRange s a n = .ok bs ↔ bs.length = n ∧ ∀ i < n, readByte s.pkt (a + i) = bs[i]? := by
  induction n generalizing a bs with
  | zero => cases bs <;> simp [readRange]
  | succ n ih =>
    constructor
    · intro h
      simp only [readRange] at h
      split at h
      · cases h
      · rename_i b hb
        split at h
        · cases h
        · rename_i cs hcs
          cases h
          obtain ⟨hl, hr⟩ := ih.mp hcs
          refine ⟨by simp [hl], fun i hi => ?_⟩
          cases i with
          | zero => simpa using readPkt_ok_iff.mp hb
          | succ i =>
            rw [show a + (i + 1) = a + 1 + i by omega]
            simpa using hr i (by omega)
    · rintro ⟨hl, hr⟩
      cases bs with
      | nil => simp at hl
      | cons b cs =>
        have hb : readPkt s a = .ok b := readPkt_ok_iff.mpr (by simpa using hr 0 (by omega))
        have hcs : readRange s (a + 1) n = .ok cs := ih.mpr ⟨by simpa using hl, fun i hi => by
          have := hr (i + 1) (by omega)
          rw [show a + (i + 1) = a + 1 + i by omega] at this
          simpa using this⟩
        simp [readRange, hb, hcs]

theorem readLE16_ok_iff {s : State} {a : Nat} {v : BitVec 16} :
    readLE16 s a = .ok v ↔
      ∃ lo hi : Byte, readByte s.pkt a = some lo ∧ readByte s.pkt (a + 1) = some hi ∧ v = hi ++ lo := by
  unfold readLE16 readPkt
  cases readByte s.pkt a <;> cases readByte s.pkt (a + 1) <;> simp [eq_comm]

theorem readBE16_ok_iff {s : State} {a : Nat} {v : BitVec 16} :
    readBE16 s a = .ok v ↔
      ∃ hi lo : Byte, readByte s.pkt a = some hi ∧ readByte s.pkt (a + 1) = some lo ∧ v = hi ++ lo := by
  unfold readBE16 readPkt
  cases readByte s.pkt a <;> cases readByte s.pkt (a + 1) <;> simp [eq_comm]

/-- A field's raw bits are its byte zero-extended, or its two bytes little-endian. -/
theorem fieldBits_ok_iff {s : State} {off : Offset} {fmt : Fmt} {v : BitVec 16} :
    fieldBits s off fmt = .ok v ↔
      (fmt = .u8 ∧ ∃ b : Byte, readByte s.pkt off.toNat = some b ∧ v = b.setWidth 16) ∨
      (fmt ≠ .u8 ∧ ∃ lo hi : Byte, readByte s.pkt off.toNat = some lo ∧
        readByte s.pkt (off.toNat + 1) = some hi ∧ v = hi ++ lo) := by
  cases fmt
  · unfold fieldBits readPkt
    cases readByte s.pkt off.toNat <;> simp [Except.map, eq_comm]
  · simpa [fieldBits] using readLE16_ok_iff
  · simpa [fieldBits] using readLE16_ok_iff

/-! ### The host's next input -/

theorem takeInput_eq_some {s s' : State} {e : HostInput} :
    takeInput s = some (e, s') ↔ ∃ rest, s.inbox = e :: rest ∧ s' = { s with inbox := rest } := by
  unfold takeInput
  cases s.inbox <;> simp [eq_comm, and_comm]

theorem takeInput_eq_none {s : State} : takeInput s = none ↔ s.inbox = [] := by
  unfold takeInput
  cases s.inbox <;> simp

theorem takeInput_cons {s : State} {e : HostInput} {rest : List HostInput} (h : s.inbox = e :: rest) :
    takeInput s = some (e, { s with inbox := rest }) := takeInput_eq_some.mpr ⟨rest, h, rfl⟩

/-! ### The verdict of PKT.VAL -/

/-- The reads depend on PKT alone. -/
theorem readPkt_congr {s t : State} (h : s.pkt = t.pkt) (a : Nat) : readPkt s a = readPkt t a := by
  simp [readPkt, h]

theorem readRange_congr {s t : State} (h : s.pkt = t.pkt) (a n : Nat) : readRange s a n = readRange t a n := by
  induction n generalizing a with
  | zero => rfl
  | succ n ih => simp [readRange, readPkt_congr h, ih]

theorem readBE16_congr {s t : State} (h : s.pkt = t.pkt) (a : Nat) : readBE16 s a = readBE16 t a := by
  simp [readBE16, readPkt_congr h]

theorem readLE16_congr {s t : State} (h : s.pkt = t.pkt) (a : Nat) : readLE16 s a = readLE16 t a := by
  simp [readLE16, readPkt_congr h]

theorem fieldBits_congr {s t : State} (h : s.pkt = t.pkt) (off : Offset) (fmt : Fmt) :
    fieldBits s off fmt = fieldBits t off fmt := by
  cases fmt <;> simp [fieldBits, readPkt_congr h, readLE16_congr h]

/-- The verdict depends on the buffer, LEN, KIND and TYPE_OFF alone, and on no register of the CRC engine. -/
theorem verdict_congr {s t : State} (hp : s.pkt = t.pkt) (hl : s.len = t.len) (hk : s.kind = t.kind)
    (hc : s.cfg = t.cfg) : verdict s = verdict t := by
  simp only [verdict, lengthOk, ackOk, tagOk, typeOk, crcOk, coveredBytes, hl, hk, hc,
    readPkt_congr hp, readRange_congr hp, readBE16_congr hp]

/-- A check answers its code, an error of its own, or what the later checks answer. -/
theorem checkThen_ok {c : Except Fault Bool} {f g : Status} {rest : Except Fault Status}
    (h : checkThen c f rest = .ok g) : (c = .ok false ∧ g = f) ∨ (c = .ok true ∧ rest = .ok g) := by
  match c, h with
  | .ok true, h => exact .inr ⟨rfl, h⟩
  | .ok false, h => exact .inl ⟨rfl, by simpa [checkThen, eq_comm] using h⟩
  | .error _, h => simp [checkThen] at h

/-- Every verdict: the code of the first check that fails, the earlier ones passed; or OK, all passed. -/
theorem verdict_cases {s : State} {f : Status} (h : verdict s = .ok f) :
    (lengthOk s = .ok false ∧ f = .lengthMismatch) ∨
    (lengthOk s = .ok true ∧ ackOk s = .ok false ∧ f = .commandNotAcknowledged) ∨
    (lengthOk s = .ok true ∧ ackOk s = .ok true ∧ tagOk s = .ok false ∧ f = .tagMismatch) ∨
    (lengthOk s = .ok true ∧ ackOk s = .ok true ∧ tagOk s = .ok true ∧ typeOk s = .ok false ∧ f = .typeMismatch) ∨
    (lengthOk s = .ok true ∧ ackOk s = .ok true ∧ tagOk s = .ok true ∧ typeOk s = .ok true ∧ crcOk s = .ok false ∧
      f = .checksumMismatch) ∨
    (lengthOk s = .ok true ∧ ackOk s = .ok true ∧ tagOk s = .ok true ∧ typeOk s = .ok true ∧ crcOk s = .ok true ∧
      f = .ok) := by
  rcases checkThen_ok h with ⟨h1, hf⟩ | ⟨h1, h⟩
  · exact .inl ⟨h1, hf⟩
  rcases checkThen_ok h with ⟨h2, hf⟩ | ⟨h2, h⟩
  · exact .inr (.inl ⟨h1, h2, hf⟩)
  rcases checkThen_ok h with ⟨h3, hf⟩ | ⟨h3, h⟩
  · exact .inr (.inr (.inl ⟨h1, h2, h3, hf⟩))
  rcases checkThen_ok h with ⟨h4, hf⟩ | ⟨h4, h⟩
  · exact .inr (.inr (.inr (.inl ⟨h1, h2, h3, h4, hf⟩)))
  rcases checkThen_ok h with ⟨h5, hf⟩ | ⟨h5, h⟩
  · exact .inr (.inr (.inr (.inr (.inl ⟨h1, h2, h3, h4, h5, hf⟩))))
  · exact .inr (.inr (.inr (.inr (.inr ⟨h1, h2, h3, h4, h5, by simpa [eq_comm] using h⟩))))

/-! ### The rounder, the operands -/

/-- The rounder answers the floor or the next integer, by the side of the remainder and, on a tie, by the tie rule. -/
theorem rnd_cases (tie : RoundTie) (num den : Int) :
    (2 * (num % den) < den ∧ rnd tie num den = num / den) ∨
    (2 * (num % den) > den ∧ rnd tie num den = num / den + 1) ∨
    (2 * (num % den) = den ∧
      ((tie = .halfEven ∧ num / den % 2 = 0 ∧ rnd tie num den = num / den) ∨
       (tie = .halfEven ∧ num / den % 2 ≠ 0 ∧ rnd tie num den = num / den + 1) ∨
       (tie = .halfAway ∧ num ≥ 0 ∧ rnd tie num den = num / den + 1) ∨
       (tie = .halfAway ∧ num < 0 ∧ rnd tie num den = num / den))) := by
  rcases Int.lt_trichotomy (2 * (num % den)) den with h | h | h
  · exact .inl ⟨h, by simp [rnd, h]⟩
  · refine .inr (.inr ⟨h, ?_⟩)
    cases tie
    · by_cases he : num / den % 2 = 0
      · exact .inl ⟨rfl, he, by simp [rnd, h, he]⟩
      · exact .inr (.inl ⟨rfl, he, by simp [rnd, h, he]⟩)
    · by_cases hn : num ≥ 0
      · exact .inr (.inr (.inl ⟨rfl, hn, by simp [rnd, h, hn]⟩))
      · exact .inr (.inr (.inr ⟨rfl, Int.not_le.mp hn, by simp [rnd, h, hn]⟩))
  · exact .inr (.inl ⟨h, by simp [rnd, Int.not_lt.mpr (Int.le_of_lt h), h]⟩)

theorem divisor_pos (p : Pdiv) : 0 < divisor p := by cases p <;> decide

theorem divisor_cases (p : Pdiv) : divisor p = 1 ∨ divisor p = 10 ∨ divisor p = 100 ∨ divisor p = 1000 := by
  cases p <;> simp [divisor]

/-- The raw integer of any field lies in -32768 to 65535. -/
theorem rawInteger_range (fmt : Fmt) (bits : BitVec 16) :
    -32768 ≤ rawInteger fmt bits ∧ rawInteger fmt bits ≤ 65535 := by
  have h := bits.isLt
  cases fmt <;> simp only [rawInteger, BitVec.toInt] <;> (try split) <;> omega

/-! ### The CRC fold -/

@[simp] theorem crc16_nil : crc16 [] = 0 := rfl

theorem crc16_append (m n : List Byte) : crc16 (m ++ n) = n.foldl crcStep (crc16 m) := by
  simp [crc16]

theorem crc16_concat (m : List Byte) (b : Byte) : crc16 (m ++ [b]) = crcStep (crc16 m) b := by
  simp [crc16_append]

end Sys2Proof.Machine
end

