-- ==== Sys2Proof/Laws/Exec.lean ====
section
/-! SUPPORT. One equation per command for what its meaning answers, and the inversion of a step: what a step that
answers a next state has done. -/

namespace Sys2Proof.Machine

theorem exec_nop (s : State) : exec .nop s = .next (respond s .ok false 0) := rfl

theorem exec_crcClr (s : State) : exec .crcClr s = .next (succeed { s with acc := 0 } 0) := rfl

theorem exec_crcUpd (b : Byte) (s : State) :
    exec (.crcUpd b) s = .next (succeed { s with acc := crcStep s.acc b } ((crcStep s.acc b).setWidth 64)) := rfl

theorem exec_crcRd (s : State) : exec .crcRd s = .next (succeed s (s.acc.setWidth 64)) := rfl

theorem exec_crcCmp (hi lo : Byte) (s : State) :
    exec (.crcCmp hi lo) s = .next (succeed { s with matchFlag := crcMatches s.acc (imm16 hi lo) }
      (flagData (crcMatches s.acc (imm16 hi lo)))) := rfl

theorem exec_pktClr (k : Kind) (s : State) : exec (.pktClr k) s = .next (succeed (startPacket s k) 0) := rfl

theorem exec_pktPush_loading {s : State} (h : s.vs = .loading) (b : Byte) :
    exec (.pktPush b) s = .next (succeed (appendByte s b) ((nextLen s.len).setWidth 64)) := by
  simp [exec, execPktPush, h]

theorem exec_pktPush_refused {s : State} (h : s.vs ≠ .loading) (b : Byte) :
    exec (.pktPush b) s = .next (sequenceError s) := by
  simp [exec, execPktPush, h]

theorem exec_pktVal_refused {s : State} (h : s.vs ≠ .loading) : exec .pktVal s = .next (sequenceError s) := by
  simp [exec, execPktVal, h]

theorem exec_pktVal_ok {s : State} (h : s.vs = .loading) (hv : verdict s = .ok .ok) :
    exec .pktVal s = .next (succeed { s with vs := .valid } 0) := by
  simp [exec, execPktVal, h, hv]

theorem exec_pktVal_fail {s : State} {f : Status} (h : s.vs = .loading) (hv : verdict s = .ok f) (hf : f ≠ .ok) :
    exec .pktVal s = .next (failPacket s f) := by
  simp [exec, execPktVal, h, hv, hf]

theorem exec_pktVal_fault {s : State} {e : Fault} (h : s.vs = .loading) (hv : verdict s = .error e) :
    exec .pktVal s = .fault e := by
  simp [exec, execPktVal, h, hv]

theorem exec_fldDec_refused {s : State} (h : s.vs ≠ .valid) (off : Offset) (fmt : Fmt) (sent : Sent) (conv : Conv)
    (pdiv : Pdiv) : exec (.fldDec off fmt sent conv pdiv) s = .next (sequenceError s) := by
  simp [exec, execFldDec, h]

theorem exec_fldDec_outside {s : State} {off : Offset} {fmt : Fmt} (h : s.vs = .valid)
    (hw : inWindow s.kind off fmt = false) (sent : Sent) (conv : Conv) (pdiv : Pdiv) :
    exec (.fldDec off fmt sent conv pdiv) s = .next (structuralError s) := by
  simp [exec, execFldDec, h, hw]

theorem exec_fldDec_absent {s : State} {off : Offset} {fmt : Fmt} {sent : Sent} {bits : BitVec 16} (h : s.vs = .valid)
    (hw : inWindow s.kind off fmt = true) (hb : fieldBits s off fmt = .ok bits) (ha : isAbsent sent bits = true)
    (conv : Conv) (pdiv : Pdiv) : exec (.fldDec off fmt sent conv pdiv) s = .next (fieldAbsent s bits) := by
  simp [exec, execFldDec, h, hw, hb, ha]

theorem exec_fldDec_value {s : State} {off : Offset} {fmt : Fmt} {sent : Sent} {bits : BitVec 16} (h : s.vs = .valid)
    (hw : inWindow s.kind off fmt = true) (hb : fieldBits s off fmt = .ok bits) (ha : isAbsent sent bits = false)
    (conv : Conv) (pdiv : Pdiv) :
    exec (.fldDec off fmt sent conv pdiv) s
      = .next (fieldValue s bits (fieldResult s.cfg.roundTie fmt conv pdiv bits)) := by
  simp [exec, execFldDec, h, hw, hb, ha]

theorem exec_fldDec_fault {s : State} {off : Offset} {fmt : Fmt} {e : Fault} (h : s.vs = .valid)
    (hw : inWindow s.kind off fmt = true) (hb : fieldBits s off fmt = .error e) (sent : Sent) (conv : Conv)
    (pdiv : Pdiv) : exec (.fldDec off fmt sent conv pdiv) s = .fault e := by
  simp [exec, execFldDec, h, hw, hb]

theorem exec_regRd (r : RegName) (s : State) :
    exec (.regRd r) s = .next (respond s .ok false (registerValue r s)) := rfl

/-! ### Inversions -/

/-- What a PKT.PUSH that answers a next state has done. -/
theorem exec_pktPush_cases {s t : State} {b : Byte} (h : exec (.pktPush b) s = .next t) :
    (s.vs = .loading ∧ t = succeed (appendByte s b) ((nextLen s.len).setWidth 64)) ∨
    (s.vs ≠ .loading ∧ t = sequenceError s) := by
  by_cases hv : s.vs = .loading
  · rw [exec_pktPush_loading hv] at h
    exact .inl ⟨hv, (Host.Outcome.next.inj h).symm⟩
  · rw [exec_pktPush_refused hv] at h
    exact .inr ⟨hv, (Host.Outcome.next.inj h).symm⟩

/-- What a PKT.VAL that answers a next state has done. -/
theorem exec_pktVal_cases {s t : State} (h : exec .pktVal s = .next t) :
    (s.vs = .loading ∧ verdict s = .ok .ok ∧ t = succeed { s with vs := .valid } 0) ∨
    (∃ f, s.vs = .loading ∧ verdict s = .ok f ∧ f ≠ .ok ∧ t = failPacket s f) ∨
    (s.vs ≠ .loading ∧ t = sequenceError s) := by
  by_cases hv : s.vs = .loading
  · cases hd : verdict s with
    | error e =>
      rw [exec_pktVal_fault hv hd] at h
      cases h
    | ok f =>
      by_cases hf : f = .ok
      · subst hf
        rw [exec_pktVal_ok hv hd] at h
        exact .inl ⟨hv, rfl, (Host.Outcome.next.inj h).symm⟩
      · rw [exec_pktVal_fail hv hd hf] at h
        exact .inr (.inl ⟨f, hv, rfl, hf, (Host.Outcome.next.inj h).symm⟩)
  · rw [exec_pktVal_refused hv] at h
    exact .inr (.inr ⟨hv, (Host.Outcome.next.inj h).symm⟩)

/-- What a FLD.DEC that answers a next state has done. -/
theorem exec_fldDec_cases {s t : State} {off : Offset} {fmt : Fmt} {sent : Sent} {conv : Conv} {pdiv : Pdiv}
    (h : exec (.fldDec off fmt sent conv pdiv) s = .next t) :
    (s.vs ≠ .valid ∧ t = sequenceError s) ∨
    (s.vs = .valid ∧ inWindow s.kind off fmt = false ∧ t = structuralError s) ∨
    (∃ bits, s.vs = .valid ∧ inWindow s.kind off fmt = true ∧ fieldBits s off fmt = .ok bits ∧
      isAbsent sent bits = true ∧ t = fieldAbsent s bits) ∨
    (∃ bits, s.vs = .valid ∧ inWindow s.kind off fmt = true ∧ fieldBits s off fmt = .ok bits ∧
      isAbsent sent bits = false ∧ t = fieldValue s bits (fieldResult s.cfg.roundTie fmt conv pdiv bits)) := by
  by_cases hv : s.vs = .valid
  · cases hw : inWindow s.kind off fmt with
    | false =>
      rw [exec_fldDec_outside hv hw] at h
      exact .inr (.inl ⟨hv, rfl, (Host.Outcome.next.inj h).symm⟩)
    | true =>
      cases hb : fieldBits s off fmt with
      | error e =>
        rw [exec_fldDec_fault hv hw hb] at h
        cases h
      | ok bits =>
        cases ha : isAbsent sent bits with
        | true =>
          rw [exec_fldDec_absent hv hw hb ha] at h
          exact .inr (.inr (.inl ⟨bits, hv, rfl, rfl, ha, (Host.Outcome.next.inj h).symm⟩))
        | false =>
          rw [exec_fldDec_value hv hw hb ha] at h
          exact .inr (.inr (.inr ⟨bits, hv, rfl, rfl, ha, (Host.Outcome.next.inj h).symm⟩))
  · rw [exec_fldDec_refused hv] at h
    exact .inl ⟨hv, (Host.Outcome.next.inj h).symm⟩

/-! ### A step, by the host's next input -/

/-- What a step that answers a next state has done. -/
theorem step_cases {s t : State} (h : step s = .next t) :
    (s.inbox = [] ∧ t = s) ∨
    (∃ rest, s.inbox = .reset :: rest ∧ t = assertReset { s with inbox := rest }) ∨
    (∃ w rest i, s.inbox = .command w :: rest ∧ decode w = .ok i ∧ exec i { s with inbox := rest } = .next t) ∨
    (∃ w rest r, s.inbox = .command w :: rest ∧ decode w = .error r ∧ t = illegalCommand { s with inbox := rest }) := by
  cases hi : s.inbox with
  | nil =>
    rw [step, takeInput_eq_none.mpr hi] at h
    exact .inl ⟨rfl, (Host.Outcome.next.inj h).symm⟩
  | cons e rest =>
    rw [step, takeInput_cons hi] at h
    cases e with
    | reset => exact .inr (.inl ⟨rest, rfl, (Host.Outcome.next.inj h).symm⟩)
    | command w =>
      simp only at h
      cases hd : decode w with
      | ok i =>
        rw [hd] at h
        exact .inr (.inr (.inl ⟨w, rest, i, rfl, hd, h⟩))
      | error r =>
        rw [hd] at h
        exact .inr (.inr (.inr ⟨w, rest, r, rfl, hd, (Host.Outcome.next.inj h).symm⟩))

/-- A presented word is the host's next input. -/
theorem takeInput_presentWord (s : State) (w : CmdWord) : takeInput (presentWord s w) = some (.command w, s) := by
  cases s
  rfl

end Sys2Proof.Machine
end

