-- ==== Sys2Proof/Laws/PerInstr.lean ====
section
/-! SUPPORT. Statements made per instruction: the word the encoder writes belongs to the command's row of the opcode map
(30_encoding.md R62). -/

namespace Sys2Proof.Laws.EncodeRow

/-- Under the mask of the command's row, its word is the row's match. -/
def Statement (i : Instr) : Prop := encode i &&& (opcodeRow i).2 = (opcodeRow i).1

theorem nop : Statement (.nop) := by
  unfold Statement; decide

theorem crcClr : Statement (.crcClr) := by
  unfold Statement; decide

theorem crcUpd (b : Byte) : Statement (.crcUpd b) := by
  refine (and_highMask_eq_iff _ 8 0x200000 (by decide) (by decide)).mpr ?_
  rw [encode_crcUpd_toNat]
  have := b.isLt
  omega

theorem crcRd : Statement (.crcRd) := by
  unfold Statement; decide

theorem crcCmp (hi lo : Byte) : Statement (.crcCmp hi lo) := by
  refine (and_highMask_eq_iff _ 16 0x4000 (by decide) (by decide)).mpr ?_
  rw [encode_crcCmp_toNat]
  have := hi.isLt
  have := lo.isLt
  omega

theorem pktClr (k : Kind) : Statement (.pktClr k) := by
  unfold Statement; cases k <;> decide

theorem pktPush (b : Byte) : Statement (.pktPush b) := by
  refine (and_highMask_eq_iff _ 8 0x600000 (by decide) (by decide)).mpr ?_
  rw [encode_pktPush_toNat]
  have := b.isLt
  omega

theorem pktVal : Statement (.pktVal) := by
  unfold Statement; decide

theorem fldDec (off : Offset) (fmt : Fmt) (sent : Sent) (conv : Conv) (pdiv : Pdiv) : Statement (.fldDec off fmt sent conv pdiv) := by
  refine (and_highMask_eq_iff _ 20 0x800 (by decide) (by decide)).mpr ?_
  rw [encode_fldDec_toNat]
  have := off.isLt
  have := (fmtCode fmt).isLt
  have := (sentCode sent).isLt
  have := (convCode conv).isLt
  have := (pdivCode pdiv).isLt
  omega

theorem regRd (r : RegName) : Statement (.regRd r) := by
  unfold Statement; cases r <;> decide

end Sys2Proof.Laws.EncodeRow
end

