-- ==== Sys2Proof/Laws/Run.lean ====
section
/-! SUPPORT. Runs of the machine, unfolded one step at a time. -/

namespace Sys2Proof.Machine

theorem coreRun_succ {M : Host.Core} {s t : M.State} (h : M.step s = .next t) (k : Nat) :
    Host.Core.run M (k + 1) s = Host.Core.run M k t := by
  simp only [Host.Core.run, h]

theorem coreRun_add {M : Host.Core} {s t : M.State} {j : Nat} (h : Host.Core.run M j s = .next t) (k : Nat) :
    Host.Core.run M (j + k) s = Host.Core.run M k t := by
  induction j generalizing s with
  | zero =>
    simp only [Host.Core.run, Host.Outcome.next.injEq] at h
    simp [h]
  | succ j ih =>
    rw [Nat.add_right_comm]
    simp only [Host.Core.run] at h ⊢
    cases hd : M.step s with
    | next u =>
      rw [hd] at h
      exact ih h
    | fault r =>
      rw [hd] at h
      cases h
    | refused r =>
      rw [hd] at h
      cases h

theorem run_zero (s : State) : Host.Core.run core 0 s = .next s := rfl

/-- A run goes on from the state its first step answers. -/
theorem run_succ {s t : State} (h : step s = .next t) (k : Nat) :
    Host.Core.run core (k + 1) s = Host.Core.run core k t := coreRun_succ (M := core) h k

/-- Two runs end to end. -/
theorem run_add {s t : State} {j : Nat} (h : Host.Core.run core j s = .next t) (k : Nat) :
    Host.Core.run core (j + k) s = Host.Core.run core k t := coreRun_add (M := core) h k

end Sys2Proof.Machine
end

