-- ==== Sys2Proof/Machine/Rendering.lean ====
section
/-! DEFINITION. The host's renderings that the spec fixes beside the block: the assembler syntax (30_encoding.md R69),
the compass names (42_field_decode.md R136) and the text of a time code (R138). The block itself produces no text.
Texts are lists of characters. -/

namespace Sys2Proof.Machine

/-- The decimal digits of `n`, at most `fuel` of them, without leading zeros (none for 0). -/
def digitsUpTo : Nat → Nat → List Char
  | 0, _ => []
  | fuel + 1, n => if n = 0 then [] else digitsUpTo fuel (n / 10) ++ [Char.ofNat (48 + n % 10)]

/-- `n` in decimal, padded on the left with zeros to at least `width` digits. -/
def decimalText (width n : Nat) : List Char :=
  let ds := digitsUpTo 20 n
  List.replicate (width - ds.length) '0' ++ ds

/-- The text of an HHMM result (42_field_decode.md R138): hour and minute, each padded to at least two digits. -/
def hhmmText (res : Data) : List Char :=
  decimalText 2 (res.toNat / 256) ++ [':'] ++ decimalText 2 (res.toNat % 256)

/-- The names of the compass sectors (42_field_decode.md R136), index 0 to 15. -/
def compassNames : List (List Char) :=
  [['N'], ['N', 'N', 'E'], ['N', 'E'], ['E', 'N', 'E'],
   ['E'], ['E', 'S', 'E'], ['S', 'E'], ['S', 'S', 'E'],
   ['S'], ['S', 'S', 'W'], ['S', 'W'], ['W', 'S', 'W'],
   ['W'], ['W', 'N', 'W'], ['N', 'W'], ['N', 'N', 'W']]

/-- The text of a COMPASS result (42_field_decode.md R136). -/
def compassText (res : Data) : Option (List Char) := compassNames[res.toNat]?

/-- The assembler's name of a packet kind (30_encoding.md R69). -/
def kindText : Kind → String
  | .loop => "LOOP"
  | .loop2 => "LOOP2"
  | .hilow => "HILOW"
  | .time => "TIME"

/-- The assembler's name of a format (30_encoding.md R69). -/
def fmtText : Fmt → String
  | .u8 => "U8"
  | .s16le => "S16LE"
  | .u16le => "U16LE"

/-- The assembler's name of a sentinel selector (30_encoding.md R69). -/
def sentText : Sent → String
  | .noSentinel => "NONE"
  | .patFFFF => "FFFF"
  | .pat7FFF => "7FFF"
  | .patFF => "FF"
  | .patZero => "ZERO"

/-- The assembler's name of a conversion (30_encoding.md R69). -/
def convText : Conv → String
  | .raw => "RAW"
  | .f2c => "F2C"
  | .mph2ms => "MPH2MS"
  | .inhg2hpa => "INHG2HPA"
  | .clicks2mm => "CLICKS2MM"
  | .compass => "COMPASS"
  | .hhmm => "HHMM"

/-- The assembler's name of a register (30_encoding.md R69). -/
def regText : RegName → String
  | .acc => "ACC"
  | .status => "STATUS"
  | .len => "LEN"
  | .raw => "RAW"
  | .res => "RES"

/-- `n` in decimal as the assembler writes it. -/
def numberText (n : Nat) : List Char := decimalText 1 n

/-- A command in the assembler syntax, numbers in decimal, `pdiv` written as the divisor (30_encoding.md R69). -/
def asmText : Instr → List Char
  | .nop => "NOP".toList
  | .crcClr => "CRC.CLR".toList
  | .crcUpd b => "CRC.UPD ".toList ++ numberText b.toNat
  | .crcRd => "CRC.RD".toList
  | .crcCmp hi lo => "CRC.CMP ".toList ++ numberText (imm16 hi lo).toNat
  | .pktClr k => "PKT.CLR ".toList ++ (kindText k).toList
  | .pktPush b => "PKT.PUSH ".toList ++ numberText b.toNat
  | .pktVal => "PKT.VAL".toList
  | .fldDec off fmt sent conv pdiv =>
    "FLD.DEC off=".toList ++ numberText off.toNat ++ " fmt=".toList ++ (fmtText fmt).toList
      ++ " sent=".toList ++ (sentText sent).toList ++ " conv=".toList ++ (convText conv).toList
      ++ " pdiv=".toList ++ numberText (divisor pdiv).toNat
  | .regRd r => "REG.RD ".toList ++ (regText r).toList

end Sys2Proof.Machine
end

