-- ==== Sys2Proof/Tests/Slice0.lean ====
section
/-! SUPPORT. Tests: expected values are those of 95_test_vectors.md (V, P) or of the rule named, worked out by hand. Then
one witness for each statement that has hypotheses: a concrete state and operands that meet them all. -/

namespace Sys2Proof.Tests

open Sys2Proof Sys2Proof.Machine

/-! ### Well-formedness: each check refuses an ill-formed term (30_encoding.md R66 items 6 and 7) -/

theorem test_wf_compass_takes_no_divisor : wellFormed (.fldDec 0 .u16le .noSentinel .compass .by10) = false := by decide

theorem test_wf_hhmm_takes_no_divisor : wellFormed (.fldDec 0 .u16le .patFFFF .hhmm .by1000) = false := by decide

theorem test_wf_hhmm_takes_no_signed_field : wellFormed (.fldDec 0 .s16le .patFFFF .hhmm .by1) = false := by decide

theorem test_wf_hhmm_of_a_byte : wellFormed (.fldDec 0 .u8 .noSentinel .hhmm .by1) = true := by decide

/-! ### Decoding: words from the spec -/

/-- V58, P1, P2, P3, V13, V15, V62. -/
theorem test_decode_plain_commands :
    decode 0x00000000 = .ok .nop ∧ decode 0x10000000 = .ok .crcClr ∧ decode 0x200000FF = .ok (.crcUpd 0xFF) ∧
    decode 0x30000000 = .ok .crcRd ∧ decode 0x40002B51 = .ok (.crcCmp 0x2B 0x51) ∧
    decode 0x60000006 = .ok (.pktPush 0x06) ∧ decode 0x70000000 = .ok .pktVal := by decide

/-- P1 to P4: the four kinds. -/
theorem test_decode_pktClr :
    decode 0x50000000 = .ok (.pktClr .loop) ∧ decode 0x50000001 = .ok (.pktClr .loop2) ∧
    decode 0x50000002 = .ok (.pktClr .hilow) ∧ decode 0x50000003 = .ok (.pktClr .time) := by decide

/-- 10_state.md R24: the five registers. -/
theorem test_decode_regRd :
    decode 0x90000000 = .ok (.regRd .acc) ∧ decode 0x90000001 = .ok (.regRd .status) ∧
    decode 0x90000002 = .ok (.regRd .len) ∧ decode 0x90000003 = .ok (.regRd .raw) ∧
    decode 0x90000004 = .ok (.regRd .res) := by decide

/-- P3 steps 102 to 110: formats, sentinels, conversions and divisors. -/
theorem test_decode_fldDec :
    decode 0x800CE407 = .ok (.fldDec 7 .u16le .patZero .inhg2hpa .by1000) ∧
    decode 0x80045209 = .ok (.fldDec 9 .s16le .pat7FFF .f2c .by10) ∧
    decode 0x8000180B = .ok (.fldDec 11 .u8 .patFF .raw .by1) ∧
    decode 0x8000980E = .ok (.fldDec 14 .u8 .patFF .mph2ms .by1) ∧
    decode 0x80014410 = .ok (.fldDec 16 .u16le .noSentinel .compass .by1) ∧
    decode 0x80010432 = .ok (.fldDec 50 .u16le .noSentinel .clicks2mm .by1) ∧
    decode 0x80018C5B = .ok (.fldDec 91 .u16le .patFFFF .hhmm .by1) := by decide

/-- V63, V80 row v: the largest legal word, and the divisor 100. -/
theorem test_decode_fldDec_edges :
    decode 0x800D25FF = .ok (.fldDec 511 .u16le .patZero .clicks2mm .by1000) ∧
    decode 0x80090401 = .ok (.fldDec 1 .u16le .noSentinel .clicks2mm .by100) ∧
    decode 0x80000000 = .ok (.fldDec 0 .u8 .noSentinel .raw .by1) := by decide

/-- V20 to V29, V37: a must-be-zero bit set. -/
theorem test_decode_rejects_must_be_zero :
    decode 0x00000001 = .error .mustBeZero ∧ decode 0x0FFFFFFF = .error .mustBeZero ∧
    decode 0x10000001 = .error .mustBeZero ∧ decode 0x20000100 = .error .mustBeZero ∧
    decode 0x30000001 = .error .mustBeZero ∧ decode 0x40010000 = .error .mustBeZero ∧
    decode 0x50000004 = .error .mustBeZero ∧ decode 0x60000100 = .error .mustBeZero ∧
    decode 0x70000001 = .error .mustBeZero ∧ decode 0x80100000 = .error .mustBeZero ∧
    decode 0x90000010 = .error .mustBeZero := by decide

/-- V30 to V36, V38 to V40: reserved values, forbidden pairs, opcodes without a command. -/
theorem test_decode_rejects_reserved :
    decode 0x80000600 = .error .fmt ∧ decode 0x80002800 = .error .sent ∧ decode 0x8001C000 = .error .conv ∧
    decode 0x80054000 = .error .pdivOnCode ∧ decode 0x80058000 = .error .pdivOnCode ∧
    decode 0x80018200 = .error .signedTimeCode ∧ decode 0x90000005 = .error .register ∧
    decode 0xA0000000 = .error .opcode ∧ decode 0xF0000000 = .error .opcode ∧
    decode 0xFFFFFFFF = .error .opcode := by decide

/-- P3 steps 102 and 106, P1 step 13. -/
theorem test_encode_words :
    encode (.fldDec 7 .u16le .patZero .inhg2hpa .by1000) = 0x800CE407 ∧
    encode (.fldDec 14 .u8 .patFF .mph2ms .by1) = 0x8000980E ∧ encode (.crcCmp 0x31 0xC2) = 0x400031C2 := by decide

/-- A word as the opcode table numbers it; an illegal one, and one with a bit above 31, give nothing. -/
theorem test_decodeTableWord :
    decodeTableWord 32 0x50000003 = some (.pktClr .time) ∧ decodeTableWord 32 0x20000100 = none ∧
    decodeTableWord 40 0x100000000 = none := by decide

/-! ### States for the tests -/

/-- The state an outcome answers, if it answers one. -/
def nextState : Host.Outcome State Fault Refusal → Option State
  | .next s => some s
  | .fault _ => none
  | .refused _ => none

/-- The last response of the state an outcome answers. -/
def answer (o : Host.Outcome State Fault Refusal) : Option Response :=
  (nextState o).bind fun s => s.responses.getLast?

/-- A packet of a kind, loaded and not validated. -/
def holding (k : Kind) (bytes : List Byte) : State :=
  { State.reset with kind := k, len := BitVec.ofNat 9 bytes.length, pkt := (List.range bytes.length).zip bytes }

/-- The TIME packet of V64 to V72. -/
def timeBytes : List Byte := [0x06, 0x01, 0x02, 0x00, 0x00, 0x00, 0x00, 0x01, 0x23]

/-- The clock reply of P2. -/
def clockBytes : List Byte := [0x06, 0x1E, 0x0F, 0x0E, 0x08, 0x0B, 0x7E, 0xB7, 0x86]

/-- The LOOP packet of V73 to V77. -/
def loopBytes : List Byte := [0x4C, 0x4F, 0x4F] ++ List.replicate 94 0x00 ++ [0x8F, 0x09]

/-- A TIME packet in LOADING, VALID and FAILED. -/
def loadedTime : State := holding .time timeBytes

def validTime : State := { loadedTime with vs := .valid }

def failedTime : State := { holding .time clockBytes with vs := .failed, failcode := .checksumMismatch, lst := .checksumMismatch }

/-- A TIME packet in VALID whose field at offsets 1 and 2 has two given bytes (V80; the CRC plays no part in FLD.DEC). -/
def validField (lo hi : Byte) : State := { holding .time [0x06, lo, hi, 0, 0, 0, 0, 0, 0] with vs := .valid }

/-- A LOOP packet in LOADING. -/
def loadedLoop : State := holding .loop loopBytes

/-! ### The CRC -/

/-- V12, rows 1, 2 and 11. -/
theorem test_crcStep :
    crcStep 0x0000 0x31 = 0x2672 ∧ crcStep 0x2672 0x32 = 0x20B5 ∧ crcStep 0xC300 0xC3 = 0x0000 := by decide

/-- V3, V9, V10. -/
theorem test_crc16 :
    crc16 [0x31, 0x32, 0x33, 0x34, 0x35, 0x36, 0x37, 0x38, 0x39] = 0x31C3 ∧
    crc16 [0x1E, 0x0F, 0x0E, 0x08, 0x0B, 0x7E] = 0xB786 ∧ crc16 [0xFF, 0xFF] = 0x1D0F := by decide

/-- The printed rows of TABLE hold 256 entries. -/
theorem test_table_size :
    crcTableRows0.length = 64 ∧ crcTableRows1.length = 64 ∧ crcTableRows2.length = 64 ∧ crcTableRows3.length = 64 :=
  ⟨rfl, rfl, rfl, rfl⟩

/-! ### One step of each command -/

/-- V16: ACC is cleared, MATCH is not. -/
theorem test_crcClr :
    ((nextState (exec .crcClr { State.reset with acc := 0x1EF0, matchFlag := true })).map fun s => (s.acc, s.matchFlag))
      = some (0x0000, true) := by decide

/-- V13. -/
theorem test_crcUpd :
    ((nextState (exec (.crcUpd 0xFF) State.reset)).map (·.acc)) = some 0x1EF0 ∧
    answer (exec (.crcUpd 0xFF) State.reset) = some ⟨.ok, false, 0x1EF0⟩ := by decide

/-- P1 step 11. -/
theorem test_crcRd : answer (exec .crcRd { State.reset with acc := 0x31C3 }) = some ⟨.ok, false, 0x31C3⟩ := by decide

/-- P1 step 12: HI is the high half. -/
theorem test_crcCmp_equal :
    answer (exec (.crcCmp 0x31 0xC3) { State.reset with acc := 0x31C3 }) = some ⟨.ok, false, 1⟩ := by decide

/-- P1 step 13: a mismatch clears MATCH and is no failure. -/
theorem test_crcCmp_different :
    ((nextState (exec (.crcCmp 0x31 0xC2) { State.reset with acc := 0x31C3, matchFlag := true })).map
      fun s => (s.matchFlag, s.lst)) = some (false, .ok) := by decide

/-- V59: from a failed packet. -/
theorem test_pktClr :
    ((nextState (exec (.pktClr .hilow) failedTime)).map fun s => (s.kind, s.len, s.pkt)) = some (.hilow, 0, []) ∧
    ((nextState (exec (.pktClr .hilow) failedTime)).map fun s => (s.vs, s.failcode)) = some (.loading, .ok) := by decide

/-- P2 step 3. -/
theorem test_pktPush :
    ((nextState (exec (.pktPush 0x1E) (holding .time [0x06]))).map fun s => (s.pkt, s.len))
      = some ([(0, 0x06), (1, 0x1E)], 2) := by decide

/-- 41_packet_validate.md R102, corner case: at LEN 511 nothing is stored or counted, and ST is 0. -/
theorem test_pktPush_saturates :
    answer (exec (.pktPush 0x1E) { State.reset with len := 511 }) = some ⟨.ok, false, 511⟩ := by decide

/-- P2 step 11. -/
theorem test_pktVal :
    ((nextState (exec .pktVal (holding .time clockBytes))).map fun s => (s.vs, s.failcode)) = some (.valid, .ok) := by
  decide

/-- V50: the last byte wrong. -/
theorem test_pktVal_checksum :
    ((nextState (exec .pktVal (holding .time [0x06, 0x1E, 0x0F, 0x0E, 0x08, 0x0B, 0x7E, 0xB7, 0x87]))).map
      fun s => (s.vs, s.failcode, statusView s)) = some (.failed, .checksumMismatch, 0x14E5) := by decide

/-- V80 row c: the sentinel, under a conversion that is not made. -/
theorem test_fldDec_absent :
    ((nextState (exec (.fldDec 1 .s16le .pat7FFF .f2c .by10) (validField 0xFF 0x7F))).map fun s => (s.raw, s.res, s.abs))
      = some (0x7FFF, 0, true) := by decide

/-- V80 rows l and t: little-endian, signed, wrapping upward. -/
theorem test_fldDec_signed :
    answer (exec (.fldDec 1 .s16le .noSentinel .raw .by1) (validField 0x00 0x80))
      = some ⟨.ok, false, BitVec.ofInt 64 (-32768000)⟩ ∧
    answer (exec (.fldDec 1 .s16le .noSentinel .compass .by1) (validField 0xF4 0xFF)) = some ⟨.ok, false, 15⟩ := by
  decide

/-- P5 step 4: LST stays. -/
theorem test_nop :
    ((nextState (exec .nop { State.reset with lst := .illegalCommand })).map (·.lst)) = some .illegalCommand := by decide

/-- P5 step 5, V56. -/
theorem test_regRd_status :
    answer (exec (.regRd .status) { holding .time [0x06] with lst := .illegalCommand }) = some ⟨.ok, false, 0xC8⟩ := by
  decide

/-- P3 step 112. -/
theorem test_regRd_res :
    answer (exec (.regRd .res) { validTime with res := 0xFFFFFFFFFFFFB2F6 }) = some ⟨.ok, false, 0xFFFFFFFFFFFFB2F6⟩ := by
  decide

/-! ### The window (V64 to V76) -/

theorem test_window :
    inWindow .time 0 .u8 = false ∧ inWindow .time 1 .u8 = true ∧ inWindow .time 6 .u8 = true ∧
    inWindow .time 7 .u8 = false ∧ inWindow .time 5 .u16le = true ∧ inWindow .time 6 .u16le = false ∧
    inWindow .loop 95 .u16le = true ∧ inWindow .loop 96 .s16le = false ∧ inWindow .loop2 96 .u8 = true ∧
    inWindow .hilow 434 .u16le = true ∧ inWindow .hilow 435 .u16le = false ∧ inWindow .hilow 511 .u8 = false := by
  decide

/-! ### The conversions -/

/-- V81. -/
theorem test_f2c :
    convert .halfEven .f2c 725 10 = 22500 ∧ convert .halfEven .f2c (-35) 10 = -19722 ∧
    convert .halfEven .f2c 0 1 = -17778 := by decide

/-- V82. -/
theorem test_mph2ms : convert .halfEven .mph2ms 105 10 = 4694 ∧ convert .halfEven .mph2ms (-1) 1 = -447 := by decide

/-- V83: 29500 (90_conflicts.md C1) and the ties under both rules. -/
theorem test_inhg2hpa :
    convert .halfEven .inhg2hpa 29500 1000 = 998985 ∧ convert .halfEven .inhg2hpa 15000 1000 = 507958 ∧
    convert .halfAway .inhg2hpa 15000 1000 = 507959 ∧ convert .halfAway .inhg2hpa (-15000) 1000 = -507959 := by decide

/-- V84. -/
theorem test_clicks2mm :
    convert .halfEven .clicks2mm 12 1 = 3048 ∧ convert .halfEven .clicks2mm 75 100 = 190 ∧
    convert .halfAway .clicks2mm (-75) 100 = -191 := by decide

/-- V85. -/
theorem test_raw : convert .halfEven .raw 725 10 = 72500 ∧ convert .halfAway .raw (-1) 1000 = -1 := by decide

/-- V90: the edges of N and NNW, a negative angle, one above 360. -/
theorem test_compass :
    convert .halfEven .compass 348 1 = 15 ∧ convert .halfEven .compass 349 1 = 0 ∧
    convert .halfEven .compass (-12) 1 = 15 ∧ convert .halfEven .compass 372 1 = 1 := by decide

/-- V91: hour times 100 plus minute, not a minute count. -/
theorem test_hhmm :
    convert .halfEven .hhmm 60 1 = 0x3C ∧ convert .halfEven .hhmm 1745 1 = 0x112D ∧
    convert .halfEven .hhmm 65534 1 = 0x28F22 := by decide

/-- V91, V90, P3 step 106: the host's texts. -/
theorem test_texts :
    hhmmText 0x112D = ['1', '7', ':', '4', '5'] ∧ hhmmText 5 = ['0', '0', ':', '0', '5'] ∧
    hhmmText 0x28F22 = ['6', '5', '5', ':', '3', '4'] ∧ compassText 15 = some ['N', 'N', 'W'] ∧
    asmText (.pktPush 0x06) = ['P', 'K', 'T', '.', 'P', 'U', 'S', 'H', ' ', '6'] := by decide

/-! ### A step -/

/-- P5 step 3: an illegal word in the middle of a packet changes LST only. -/
theorem test_step_illegal :
    step { holding .time [0x06] with inbox := [.command 0x60000100] }
      = .next { holding .time [0x06] with lst := .illegalCommand, responses := [⟨.illegalCommand, false, 0⟩] } := rfl

/-- 70_reset_and_hazards.md R190: reset drops the packet, keeps what waits behind it and gives no response. -/
theorem test_step_reset :
    step { failedTime with inbox := [.reset, .command 0] } = .next { State.reset with inbox := [.command 0] } := rfl

/-- The word that withFetchWord presents is the one the next step runs (V59, V13). -/
theorem test_withFetchWord :
    ((nextState (step (State.reset.withFetchWord 32 0x50000003))).map (·.kind)) = some .time ∧
    ((nextState (step (State.reset.withFetchWord 32 0x200000FF))).map (·.acc)) = some 0x1EF0 := by decide

/-! ### The invariant holds of the states the witnesses use -/

/-- The default parameters lie in their range (00_scope.md R5). -/
theorem default_inRange : Config.specDefault.inRange := ⟨by decide, by decide⟩

/-- A LOADING state with reset values but a packet, of which the bytes are held in order. -/
theorem holding_inv {k : Kind} {bytes : List Byte} (h : bufferHoldsPushedBytes (holding k bytes)) :
    Inv (holding k bytes) where
  buffer := h
  failcodeZero := ⟨fun _ => Vs.noConfusion, fun _ => rfl⟩
  failcodeRange := Vs.noConfusion
  validated := Vs.noConfusion
  absentNoResult := fun _ => rfl
  loadingCleared := fun _ => ⟨rfl, rfl, rfl⟩
  resRange := (by decide : -2 ^ 32 < (0 : Data).toInt ∧ (0 : Data).toInt < 2 ^ 32)
  parameters := default_inRange

theorem loadedTime_inv : Inv loadedTime := holding_inv (by decide)

theorem loadedLoop_inv : Inv loadedLoop := holding_inv (by decide)

theorem validTime_inv : Inv validTime where
  buffer := by decide
  failcodeZero := by decide
  failcodeRange := by decide
  validated := fun _ => by rfl
  absentNoResult := fun _ => rfl
  loadingCleared := Vs.noConfusion
  resRange := by decide
  parameters := default_inRange

theorem failedTime_inv : Inv failedTime where
  buffer := by decide
  failcodeZero := by decide
  failcodeRange := by decide
  validated := Vs.noConfusion
  absentNoResult := fun _ => rfl
  loadingCleared := Vs.noConfusion
  resRange := by decide
  parameters := default_inRange

/-! ### Witnesses: for each statement with hypotheses, a state and operands that meet them -/

theorem witness_DecodeOfEncodeIsTheCommand :
    wellFormed (.fldDec 91 .u16le .patFFFF .hhmm .by1) = true := by decide

theorem witness_LegalWordIsItsCommandsOnlyWord : decode 0x800D25FF =
    .ok (.fldDec 511 .u16le .patZero .clicks2mm .by1000) := by decide

/-- Each item of the list of illegal words, at its boundary (V20 to V40), and a legal word. -/
theorem witness_IllegalWordsAreExactlyThoseListed :
    ({ failedTime with inbox := [.command 0x90000005] } : State).inbox = .command 0x90000005 :: [] ∧
    (∀ w ∈ [0xA0000000, 0x00000001, 0x10000001, 0x20000100, 0x30000001, 0x40010000, 0x50000004, 0x60000100,
        0x70000001, 0x80100000, 0x90000010, 0x80000600, 0x80002800, 0x8001C000, 0x80054000, 0x80058000, 0x80018200,
        0x90000005], isIllegalWord w) ∧
    ∀ w ∈ [0x00000000, 0x400031C3, 0x800D25FF, 0x80018000, 0x90000004], ¬ isIllegalWord w :=
  ⟨rfl, by simp [isIllegalWord, wordBits], by simp [isIllegalWord, wordBits]⟩

theorem witness_OpcodeMapSelectsTheCommand :
    0x200000C3 &&& 0xFFFFFF00 = (0x20000000 : CmdWord) ∧ 0x50000003 &&& 0xFFFFFFFC = (0x50000000 : CmdWord) ∧
    (0x800D25FF &&& 0xFFF00000 = (0x80000000 : CmdWord) ∧ ¬ isIllegalWord 0x800D25FF) ∧
    (0x90000004 &&& 0xFFFFFFF0 = (0x90000000 : CmdWord) ∧ ¬ isIllegalWord 0x90000004) ∧
    0xA0000000 ≤ (0xA0000000 : CmdWord).toNat :=
  ⟨by decide, by decide, ⟨by decide, by simp [isIllegalWord, wordBits]⟩, ⟨by decide, by simp [isIllegalWord, wordBits]⟩, by decide⟩

theorem witness_StepRunsTheDecodedCommand :
    ({ loadedTime with inbox := [.command 0x70000000] } : State).inbox = .command 0x70000000 :: [] ∧
    decode 0x70000000 = .ok .pktVal := by decide

theorem witness_StepWithoutInputChangesNothing : validTime.inbox = [] := rfl

theorem witness_WaitingInputsDoNotMatter : ∃ t,
    step { loadedTime with inbox := .command 0x60000006 :: [.reset] } = .next t := ⟨_, rfl⟩

theorem witness_EveryStepAnswers : Inv loadedTime ∧ Inv validTime ∧ Inv failedTime :=
  ⟨loadedTime_inv, validTime_inv, failedTime_inv⟩

theorem witness_ResetLeavesTheListedValues :
    ({ failedTime with inbox := [.reset] } : State).inbox = .reset :: [] := rfl

theorem witness_ResetKeepsParametersAndPort :
    ({ failedTime with inbox := [.reset, .command 0] } : State).inbox = .reset :: [.command 0] := rfl

theorem witness_SingleBitFlipChangesTheCrc : [0x4C, 0x4F, (0x4F : Byte)][2]? = some 0x4F ∧ 7 < 8 := by decide

/-- The inputs hold two CRC.UPD, a PKT.VAL and an illegal word, and neither CRC.CLR nor reset. -/
theorem witness_StreamingEqualsTheCrcFunction :
    Inv { loadedTime with inbox := .command (encode .crcClr) ::
      [.command 0x20000031, .command 0x70000000, .command 0xFFFFFFFF, .command 0x20000032] } ∧
    ∀ e ∈ [HostInput.command 0x20000031, .command 0x70000000, .command 0xFFFFFFFF, .command 0x20000032],
      e ≠ .reset ∧ ∀ w, e = .command w → decode w ≠ .ok .crcClr := by
  refine ⟨⟨loadedTime_inv.1, loadedTime_inv.2, loadedTime_inv.3, loadedTime_inv.4, loadedTime_inv.5, loadedTime_inv.6,
    loadedTime_inv.7, loadedTime_inv.8⟩, fun e he => ?_⟩
  simp only [List.mem_cons, List.not_mem_nil, or_false] at he
  obtain rfl | rfl | rfl | rfl := he <;> refine ⟨HostInput.noConfusion, fun w h => ?_⟩ <;> cases h <;> decide

/-- Both clauses of PKT.PUSH; the counts at which storing and counting end. -/
theorem witness_PktPushAppendsOneByte :
    State.reset.vs = .loading ∧ ({ State.reset with len := 437 } : State).vs = .loading ∧
    ({ State.reset with len := 438 } : State).vs = .loading ∧ ({ State.reset with len := 511 } : State).vs = .loading ∧
    validTime.vs ≠ .loading ∧ failedTime.vs ≠ .loading := by decide

theorem witness_PktPushStoresOnlyAtLen :
    ({ State.reset with len := 437 } : State).vs = .loading ∧ (437#9).toNat < 438 ∧
    ({ State.reset with len := 438 } : State).vs = .loading ∧ 438 ≤ (438#9).toNat := by decide

/-- Packets that pass, that fail the length check, and states that refuse. -/
theorem witness_PktValAnswersTheFirstFailingCheck :
    (loadedTime.vs = .loading ∧ bufferHoldsPushedBytes loadedTime ∧ loadedTime.cfg.inRange) ∧
    (loadedLoop.vs = .loading ∧ bufferHoldsPushedBytes loadedLoop ∧ loadedLoop.cfg.inRange) ∧
    (State.reset.vs = .loading ∧ bufferHoldsPushedBytes State.reset ∧ State.reset.cfg.inRange) ∧
    validTime.vs ≠ .loading :=
  ⟨⟨rfl, by decide, default_inRange⟩, ⟨rfl, by decide, default_inRange⟩, ⟨rfl, by decide, default_inRange⟩, by decide⟩

/-- The codes 0 to 5 of PKT.VAL are all reached: a packet that passes and one for each check that fails. -/
theorem witness_every_verdict :
    specVerdict 3 .time 9 timeBytes = .ok ∧ specVerdict 3 .hilow 0 [] = .lengthMismatch ∧
    specVerdict 3 .time 9 [0x15, 0x1E, 0x0F, 0x0E, 0x08, 0x0B, 0x7E, 0xB7, 0x86] = .commandNotAcknowledged ∧
    specVerdict 3 .loop 99 (List.replicate 99 0x00) = .tagMismatch ∧
    specVerdict 3 .loop2 99 loopBytes = .typeMismatch ∧
    specVerdict 3 .time 9 [0x06, 0x1E, 0x0F, 0x0E, 0x08, 0x0B, 0x7E, 0xB7, 0x87] = .checksumMismatch := by decide

theorem witness_PktValIgnoresTheCrcRegisters : ∃ t, exec .pktVal loadedTime = .next t ∧ t.vs = .valid := ⟨_, rfl, rfl⟩

theorem witness_LoadedPacketGetsTheSpecsVerdict :
    failedTime.cfg.inRange ∧
    ({ failedTime with inbox := (pktLoad .time timeBytes).map (fun i => .command (encode i)) ++ [.reset] } : State).inbox
      = (pktLoad .time timeBytes).map (fun i => .command (encode i)) ++ [.reset] :=
  ⟨default_inRange, rfl⟩

/-- The acknowledgment byte, a payload byte, the last byte of a TIME packet that validates. -/
theorem witness_SingleBitFlipRejectsThePacket_time :
    Inv loadedTime ∧ loadedTime.vs = .loading ∧ (∃ t, exec .pktVal loadedTime = .next t ∧ t.vs = .valid) ∧
    readByte loadedTime.pkt 0 = some 0x06 ∧ readByte loadedTime.pkt 1 = some 0x01 ∧
    readByte loadedTime.pkt 8 = some 0x23 ∧ 7 < 8 :=
  ⟨loadedTime_inv, rfl, ⟨_, rfl, rfl⟩, rfl, rfl, rfl, by decide⟩

/-- V73: the LOOP packet passes every check. -/
theorem loadedLoop_verdict : verdict loadedLoop = .ok .ok := by decide +kernel

/-- The tag's last byte, the type byte, the first byte behind it and the last byte of a LOOP packet that validates. -/
theorem witness_SingleBitFlipRejectsThePacket_loop :
    Inv loadedLoop ∧ loadedLoop.vs = .loading ∧ (∃ t, exec .pktVal loadedLoop = .next t ∧ t.vs = .valid) ∧
    readByte loadedLoop.pkt 2 = some 0x4F ∧ readByte loadedLoop.pkt 3 = some 0x00 ∧ loadedLoop.cfg.typeOff = 3 ∧
    readByte loadedLoop.pkt 4 = some 0x00 ∧ readByte loadedLoop.pkt 98 = some 0x09 ∧ 7 < 8 :=
  ⟨loadedLoop_inv, rfl, ⟨_, exec_pktVal_ok rfl loadedLoop_verdict, rfl⟩, rfl, rfl, rfl, rfl, by decide, by decide⟩

theorem witness_FldDecIsRefusedUnlessValid : loadedTime.vs ≠ .valid ∧ failedTime.vs ≠ .valid := by decide

/-- The offsets just outside the TIME window, and those past the buffer (V64, V67, V69, V71, V72). -/
theorem witness_FldDecOutsideTheWindowFailsThePacket :
    validTime.vs = .valid ∧ ¬ insidePayload validTime.kind 0 .u8 ∧ ¬ insidePayload validTime.kind 7 .u8 ∧
    ¬ insidePayload validTime.kind 6 .u16le ∧ ¬ insidePayload validTime.kind 438 .u8 ∧
    ¬ insidePayload validTime.kind 511 .s16le :=
  ⟨rfl, by simp [insidePayload, validTime, loadedTime, holding], by simp [insidePayload, validTime, loadedTime, holding],
    by simp [insidePayload, validTime, loadedTime, holding], by simp [insidePayload, validTime, loadedTime, holding],
    by simp [insidePayload, validTime, loadedTime, holding]⟩

/-- V80 rows a, c, g, j: each sentinel on a field inside the window. -/
theorem witness_FldDecIsAbsentExactlyOnTheSentinel :
    ((validField 0xFF 0xFF).vs = .valid ∧ insidePayload (validField 0xFF 0xFF).kind 1 .u16le ∧
      fieldBytesAre (validField 0xFF 0xFF) 1 .u16le 0xFF 0xFF ∧ isSentinelValue .patFFFF (rawNumber .u16le 0xFF 0xFF)) ∧
    (fieldBytesAre (validField 0xFF 0x7F) 1 .s16le 0xFF 0x7F ∧ isSentinelValue .pat7FFF (rawNumber .s16le 0xFF 0x7F)) ∧
    (fieldBytesAre (validField 0xFF 0x12) 1 .u8 0xFF 0x12 ∧ isSentinelValue .patFF (rawNumber .u8 0xFF 0x12)) ∧
    (fieldBytesAre (validField 0x00 0x00) 1 .u16le 0x00 0x00 ∧ isSentinelValue .patZero (rawNumber .u16le 0x00 0x00)) :=
  ⟨⟨rfl, by simp [insidePayload, validField, holding], ⟨rfl, .inr rfl⟩, rfl⟩, ⟨⟨rfl, .inr rfl⟩, rfl⟩,
    ⟨⟨rfl, .inl rfl⟩, rfl⟩, ⟨⟨rfl, .inr rfl⟩, rfl⟩⟩

/-- V80 rows b, h, k, l: fields inside the window that are no sentinel, one with no sentinel selected. -/
theorem witness_FldDecConvertsTheField :
    ((validField 0xFF 0xFF).vs = .valid ∧ insidePayload (validField 0xFF 0xFF).kind 1 .s16le ∧
      fieldBytesAre (validField 0xFF 0xFF) 1 .s16le 0xFF 0xFF ∧
      ¬ isSentinelValue .pat7FFF (rawNumber .s16le 0xFF 0xFF)) ∧
    (insidePayload (validField 0xFF 0x12).kind 6 .u8 ∧ fieldBytesAre (validField 0xFF 0x12) 6 .u8 0x00 0x00 ∧
      ¬ isSentinelValue .patFF (rawNumber .u8 0x00 0x00)) ∧
    (fieldBytesAre (validField 0x00 0x00) 1 .u16le 0x00 0x00 ∧
      ¬ isSentinelValue .noSentinel (rawNumber .u16le 0x00 0x00)) :=
  ⟨⟨rfl, by simp [insidePayload, validField, holding], ⟨rfl, .inr rfl⟩, by simp [isSentinelValue, rawNumber]⟩,
    ⟨by simp [insidePayload, validField, holding], ⟨rfl, .inl rfl⟩, by simp [isSentinelValue, rawNumber]⟩,
    ⟨⟨rfl, .inr rfl⟩, by simp [isSentinelValue]⟩⟩

/-- Two VALID states with one packet and different results, CRC registers and last status. -/
theorem witness_FieldsAreIndependent : ∃ t,
    validTime.vs = .valid ∧ ({ validTime with acc := 5, raw := 7, res := 9, lst := .sequenceError } : State).vs = .valid ∧
    ({ validTime with acc := 5, raw := 7, res := 9, lst := .sequenceError } : State).pkt = validTime.pkt ∧
    ({ validTime with acc := 5, raw := 7, res := 9, lst := .sequenceError } : State).kind = validTime.kind ∧
    ({ validTime with acc := 5, raw := 7, res := 9, lst := .sequenceError } : State).cfg = validTime.cfg ∧
    exec (.fldDec 1 .u8 .noSentinel .raw .by1) validTime = .next t ∧ t.res = 1000 :=
  ⟨_, rfl, rfl, rfl, rfl, rfl, rfl, rfl⟩

theorem witness_OnlyValidatedBytesAreDecoded : ∃ (t : State) (r : Response),
    Inv validTime ∧ exec (.fldDec 1 .u8 .noSentinel .raw .by1) validTime = .next t ∧
    t.responses = validTime.responses ++ [r] ∧ r.st = .ok := ⟨_, _, validTime_inv, rfl, rfl, rfl⟩

/-- A tie (V83), at which the second clause's premise holds. -/
theorem witness_RoundingIsToTheNearest :
    0 < (10000 : Int) ∧ 2 * |rnd .halfEven (25000 * 338639) 10000 * 10000 - 25000 * 338639| = 10000 ∧
    2 * |rnd .halfAway (-15000 * 338639) 10000 * 10000 - -15000 * 338639| = 10000 := by decide

/-- The ties of V83 and V84, where the two rules differ. -/
theorem witness_TieRuleMattersOnlyWhereListed :
    convert .halfEven .inhg2hpa 15000 1000 ≠ convert .halfAway .inhg2hpa 15000 1000 ∧ 15000 % (10 * 1000) = 5 * 1000 ∧
    convert .halfEven .clicks2mm 75 100 ≠ convert .halfAway .clicks2mm 75 100 ∧ 75 % 50 = 25 ∧
    convert .halfEven .clicks2mm 750 1000 ≠ convert .halfAway .clicks2mm 750 1000 ∧ 750 % 500 = 250 := by decide

theorem witness_TimeCodePacksHourAndMinute : 65535 ≤ 65535 ∧ 65535 / 100 = 655 := by decide

/-- V20, V21: the smallest and the largest other word with OP = 0. -/
theorem witness_NopOnlyAnswers :
    (0x00000001 : CmdWord).toNat < 0x10000000 ∧ (0x00000001 : CmdWord) ≠ 0x00000000 ∧
    (0x0FFFFFFF : CmdWord).toNat < 0x10000000 := by decide

/-- V36: the smallest and the largest reserved register number. -/
theorem witness_RegRdAnswersTheRegister : 5 ≤ (5#4).toNat ∧ 5 ≤ (15#4).toNat := by decide

/-- Both ends of the range of N; HHMM from 0 up. -/
theorem witness_ResultsFitTheResultRegister :
    (-32768 ≤ (-32768 : Int) ∧ (-32768 : Int) ≤ 65535 ∧ (Conv.inhg2hpa = .hhmm → (0 : Int) ≤ -32768)) ∧
    (-32768 ≤ (65535 : Int) ∧ (65535 : Int) ≤ 65535 ∧ (Conv.hhmm = .hhmm → (0 : Int) ≤ 65535)) := by decide

/-- An input of each kind in a state from which it does what its row of the table says. -/
theorem witness_SequencingFollowsTheTable :
    (∃ t, step { failedTime with inbox := [.reset] } = .next t ∧ t.vs = .loading) ∧
    (∃ t, step { failedTime with inbox := [.command 0x50000000] } = .next t ∧ t.vs = .loading) ∧
    (∃ t, step { loadedTime with inbox := [.command 0x60000006] } = .next t ∧ t.vs = .loading) ∧
    (∃ t, step { validTime with inbox := [.command 0x60000006] } = .next t ∧ t.lst = .sequenceError) ∧
    (∃ t, step { loadedTime with inbox := [.command 0x70000000] } = .next t ∧ t.vs = .valid) ∧
    (∃ t, step { State.reset with inbox := [.command 0x70000000] } = .next t ∧ t.vs = .failed) ∧
    (∃ t, step { validTime with inbox := [.command 0x80000006] } = .next t ∧ t.vs = .valid) ∧
    (∃ t, step { validTime with inbox := [.command 0x80000007] } = .next t ∧ t.vs = .failed) ∧
    (∃ t, step { failedTime with inbox := [.command 0x80000006] } = .next t ∧ t.lst = .sequenceError) ∧
    (∃ t, step { validTime with inbox := [.command 0xFFFFFFFF] } = .next t ∧ t.vs = .valid) :=
  ⟨⟨_, rfl, rfl⟩, ⟨_, rfl, rfl⟩, ⟨_, rfl, rfl⟩, ⟨_, rfl, rfl⟩, ⟨_, rfl, rfl⟩, ⟨_, rfl, rfl⟩, ⟨_, rfl, rfl⟩,
    ⟨_, rfl, rfl⟩, ⟨_, rfl, rfl⟩, ⟨_, rfl, rfl⟩⟩

theorem witness_FailedPacketStaysFailedUntilPktClr :
    failedTime.vs = .failed ∧ ∀ k, Instr.fldDec 1 .u8 .noSentinel .raw .by1 ≠ .pktClr k :=
  ⟨rfl, fun _ => Instr.noConfusion⟩

/-- A command that answers OK, one that answers absence, one that is refused, and one that keeps LST. -/
theorem witness_EveryCommandAnswersOnceAndSetsLst :
    (∃ t, exec .crcRd loadedTime = .next t) ∧
    (∃ t, exec (.fldDec 1 .u16le .patFFFF .hhmm .by1) (validField 0xFF 0xFF) = .next t ∧ t.abs = true) ∧
    (∃ t, exec .pktVal validTime = .next t ∧ t.lst = .sequenceError) ∧
    (∃ t, exec (.regRd .status) failedTime = .next t ∧ t.lst = .checksumMismatch) :=
  ⟨⟨_, rfl⟩, ⟨_, rfl, rfl⟩, ⟨_, rfl, rfl⟩, ⟨_, rfl, rfl⟩⟩

/-- Each of the codes 1 to 7 from a command and a state that give it (V49 to V53, V42, V45, V64). -/
theorem witness_StatusCodesComeFromTheirCommands :
    (∃ t, exec .pktVal State.reset = .next t ∧ t.responses = State.reset.responses ++ [⟨.lengthMismatch, false, 0⟩]) ∧
    (∃ t, exec .pktVal (holding .time [0x15, 0x1E, 0x0F, 0x0E, 0x08, 0x0B, 0x7E, 0xB7, 0x86]) = .next t ∧
      t.responses = [] ++ [⟨.commandNotAcknowledged, false, 0⟩]) ∧
    (∃ t, exec .pktVal (holding .loop (List.replicate 99 0x00)) = .next t ∧
      t.responses = [] ++ [⟨.tagMismatch, false, 0⟩]) ∧
    (∃ t, exec .pktVal (holding .loop2 loopBytes) = .next t ∧ t.responses = [] ++ [⟨.typeMismatch, false, 0⟩]) ∧
    (∃ t, exec .pktVal (holding .time [0x06, 0x1E, 0x0F, 0x0E, 0x08, 0x0B, 0x7E, 0xB7, 0x87]) = .next t ∧
      t.responses = [] ++ [⟨.checksumMismatch, false, 0⟩]) ∧
    (∃ t, exec (.fldDec 0 .u8 .noSentinel .raw .by1) validTime = .next t ∧
      t.responses = [] ++ [⟨.structuralDecodeError, false, 0⟩]) ∧
    (∃ t, exec (.pktPush 0) validTime = .next t ∧ t.responses = [] ++ [⟨.sequenceError, false, 0⟩]) :=
  ⟨⟨_, rfl, rfl⟩, ⟨_, rfl, rfl⟩, ⟨_, rfl, rfl⟩, ⟨_, rfl, rfl⟩, ⟨_, rfl, rfl⟩, ⟨_, rfl, rfl⟩, ⟨_, rfl, rfl⟩⟩

/-- A command whose writes make the premises of the clauses true: ACC, MATCH, a byte and LEN, KIND, VS, RAW, LST. -/
theorem witness_OnlyTheListedCommandsWriteEachItem :
    (∃ t, exec (.crcUpd 1) State.reset = .next t ∧ t.acc ≠ State.reset.acc) ∧
    (∃ t, exec (.crcCmp 0 0) State.reset = .next t ∧ t.matchFlag ≠ State.reset.matchFlag) ∧
    (∃ t, exec (.pktPush 7) State.reset = .next t ∧ readByte t.pkt 0 ≠ readByte State.reset.pkt 0 ∧
      t.len ≠ State.reset.len) ∧
    (∃ t, exec (.pktClr .time) State.reset = .next t ∧ t.kind ≠ State.reset.kind) ∧
    (∃ t, exec .pktVal loadedTime = .next t ∧ t.vs ≠ loadedTime.vs) ∧
    (∃ t, exec (.fldDec 1 .u8 .noSentinel .raw .by1) validTime = .next t ∧ t.raw ≠ validTime.raw) ∧
    (∃ t, exec (.pktPush 7) validTime = .next t ∧ t.lst ≠ validTime.lst) :=
  ⟨⟨_, rfl, by decide⟩, ⟨_, rfl, by decide⟩, ⟨_, rfl, by decide, by decide⟩, ⟨_, rfl, by decide⟩, ⟨_, rfl, by decide⟩,
    ⟨_, rfl, by decide⟩, ⟨_, rfl, by decide⟩⟩

theorem witness_EveryStepKeepsTheInvariant : ∃ t, Inv validTime ∧ step validTime = .next t := ⟨_, validTime_inv, rfl⟩

theorem witness_ResetMeetsTheInvariant : Config.inRange { typeOff := 96, roundTie := .halfAway } :=
  ⟨by decide, by decide⟩

theorem witness_RunsNeverStop : Inv loadedLoop := loadedLoop_inv

theorem witness_EveryStepKeepsTheBufferCanonical : ∃ t,
    Memory.wf (holding .time [0x06]).pkt ∧ step { holding .time [0x06] with inbox := [.command 0x6000001E] } = .next t :=
  ⟨_, by decide, rfl⟩

end Sys2Proof.Tests
end

/-! PROOFS. What a step is for each next input (00_scope.md R8), and progress: in a state that meets the invariant no
rule reads a byte of PKT without a value (20_memory.md R50), so every command, and with it every step, answers a next
state. -/

namespace Sys2Proof.Machine

/-! ### A step, by the host's next input -/

theorem step_of_inbox_nil {s : State} (h : s.inbox = []) : step s = .next s := by
  simp only [step, takeInput_eq_none.mpr h]

theorem step_of_reset {s : State} {rest : List HostInput} (h : s.inbox = .reset :: rest) :
    step s = .next (assertReset { s with inbox := rest }) := by
  simp only [step, takeInput_cons h]

theorem step_of_decode_ok {s : State} {w : CmdWord} {rest : List HostInput} {i : Instr}
    (h : s.inbox = .command w :: rest) (hd : decode w = .ok i) : step s = exec i { s with inbox := rest } := by
  simp only [step, takeInput_cons h, hd]

theorem step_of_decode_error {s : State} {w : CmdWord} {rest : List HostInput} {r : IllegalReason}
    (h : s.inbox = .command w :: rest) (hd : decode w = .error r) :
    step s = .next (illegalCommand { s with inbox := rest }) := by
  simp only [step, takeInput_cons h, hd]

/-! ### Reads that meet only bytes with a value -/

/-- Every byte of a complete packet of the state's kind has a value. -/
def wholePacketHasValues (s : State) : Prop := ∀ a < expLen s.kind, ∃ b, readByte s.pkt a = some b

theorem expLen_le_bufSize (k : Kind) : expLen k ≤ 438 := by cases k <;> decide

/-- The bytes pushed have values, so a buffer of the expected length is a whole packet (20_memory.md R50). -/
theorem wholePacketHasValues_of_length {s : State} (hb : bufferHoldsPushedBytes s) (hl : s.len.toNat = expLen s.kind) :
    wholePacketHasValues s := by
  intro a ha
  have hk := expLen_le_bufSize s.kind
  have hlt : a < (s.pkt.map Prod.snd).length := by
    rw [length_of_range hb]
    omega
  exact ⟨_, (readByte_of_range hb a).trans (List.getElem?_eq_getElem hlt)⟩

section
variable {s : State} (hs : wholePacketHasValues s)
include hs

theorem readPkt_answers {a : Nat} (ha : a < expLen s.kind) : ∃ b, readPkt s a = .ok b :=
  (hs a ha).imp fun _ => readPkt_ok_iff.mpr

theorem readRange_answers {a n : Nat} (h : a + n ≤ expLen s.kind) : ∃ bs, readRange s a n = .ok bs := by
  induction n generalizing a with
  | zero => exact ⟨[], rfl⟩
  | succ n ih =>
    obtain ⟨b, hb⟩ := readPkt_answers hs (a := a) (by omega)
    obtain ⟨bs, hbs⟩ := ih (a := a + 1) (by omega)
    exact ⟨b :: bs, by simp only [readRange, hb, hbs]⟩

theorem readLE16_answers {a : Nat} (h : a + 2 ≤ expLen s.kind) : ∃ v, readLE16 s a = .ok v := by
  obtain ⟨lo, hlo⟩ := hs a (by omega)
  obtain ⟨hi, hhi⟩ := hs (a + 1) (by omega)
  exact ⟨_, readLE16_ok_iff.mpr ⟨lo, hi, hlo, hhi, rfl⟩⟩

theorem readBE16_answers {a : Nat} (h : a + 2 ≤ expLen s.kind) : ∃ v, readBE16 s a = .ok v := by
  obtain ⟨hi, hhi⟩ := hs a (by omega)
  obtain ⟨lo, hlo⟩ := hs (a + 1) (by omega)
  exact ⟨_, readBE16_ok_iff.mpr ⟨hi, lo, hhi, hlo, rfl⟩⟩

end

/-! ### The checks of PKT.VAL -/

theorem lengthOk_eq_true_iff {s : State} : lengthOk s = .ok true ↔ s.len.toNat = expLen s.kind := by
  simp [lengthOk]

theorem map_answers {α β : Type} {c : Except Fault α} (f : α → β) (h : ∃ v, c = .ok v) : ∃ v, c.map f = .ok v := by
  obtain ⟨v, rfl⟩ := h
  exact ⟨f v, rfl⟩

section
variable {s : State} (hs : wholePacketHasValues s)
include hs

theorem ackOk_answers : ∃ b, ackOk s = .ok b := by
  cases hk : s.kind <;> simp only [ackOk, hk]
  case time => exact map_answers _ (readPkt_answers hs (by simp [hk, expLen]))
  all_goals exact ⟨true, rfl⟩

theorem tagOk_answers : ∃ b, tagOk s = .ok b := by
  cases hk : s.kind <;> simp only [tagOk, hk]
  case loop | loop2 => exact map_answers _ (readRange_answers hs (by simp [hk, expLen]))
  all_goals exact ⟨true, rfl⟩

/-- TYPE_OFF is at most 96 (00_scope.md R5), inside the 99 bytes of a LOOP or LOOP2 packet. -/
theorem typeOk_answers (hc : s.cfg.inRange) : ∃ b, typeOk s = .ok b := by
  obtain ⟨-, hmax⟩ := hc
  cases hk : s.kind <;> simp only [typeOk, hk]
  case loop | loop2 => exact map_answers _ (readPkt_answers hs (by simp only [hk, expLen]; omega))
  all_goals exact ⟨true, rfl⟩

theorem crcOk_answers : ∃ b, crcOk s = .ok b := by
  have hfield : crcFieldAt s.kind + 2 ≤ expLen s.kind := by cases s.kind <;> decide
  have hcovered : crcLo s.kind + (crcFieldAt s.kind - crcLo s.kind) ≤ expLen s.kind := by cases s.kind <;> decide
  obtain ⟨bs, hbs⟩ : ∃ bs, coveredBytes s = .ok bs := readRange_answers hs hcovered
  simp only [crcOk, hbs]
  exact map_answers _ (readBE16_answers hs hfield)

end

/-- A check answers when its own test does and, should the test pass, the later checks do. -/
theorem checkThen_answers {c : Except Fault Bool} {rest : Except Fault Status} (f : Status) (hc : ∃ b, c = .ok b)
    (hrest : c = .ok true → ∃ g, rest = .ok g) : ∃ g, checkThen c f rest = .ok g := by
  obtain ⟨b, rfl⟩ := hc
  cases b with
  | false => exact ⟨f, rfl⟩
  | true => exact hrest rfl

/-- PKT.VAL reads PKT only after the length check, so it meets no byte without a value. -/
theorem verdict_answers {s : State} (hb : bufferHoldsPushedBytes s) (hc : s.cfg.inRange) : ∃ f, verdict s = .ok f := by
  refine checkThen_answers _ ⟨_, rfl⟩ fun hl => ?_
  have hs := wholePacketHasValues_of_length hb (lengthOk_eq_true_iff.mp hl)
  exact checkThen_answers _ (ackOk_answers hs) fun _ =>
    checkThen_answers _ (tagOk_answers hs) fun _ =>
    checkThen_answers _ (typeOk_answers hs hc) fun _ =>
    checkThen_answers _ (crcOk_answers hs) fun _ => ⟨_, rfl⟩

theorem length_of_verdict_ok {s : State} (h : verdict s = .ok .ok) : s.len.toNat = expLen s.kind := by
  rcases checkThen_ok h with ⟨-, hf⟩ | ⟨hl, -⟩
  · cases hf
  · exact lengthOk_eq_true_iff.mp hl

/-! ### The field of FLD.DEC -/

/-- The payload window lies inside the packet (20_memory.md R54). -/
theorem field_end_le_expLen {k : Kind} {off : Offset} {fmt : Fmt} (h : inWindow k off fmt = true) :
    off.toNat + fmtWidth fmt ≤ expLen k := by
  obtain ⟨-, hhi⟩ := of_decide_eq_true h
  have hpay : payHi k + 1 ≤ expLen k := by cases k <;> decide
  omega

theorem fieldBits_answers {s : State} (hs : wholePacketHasValues s) {off : Offset} {fmt : Fmt}
    (hw : inWindow s.kind off fmt = true) : ∃ v, fieldBits s off fmt = .ok v := by
  have hend := field_end_le_expLen hw
  cases fmt with
  | u8 => exact map_answers _ (readPkt_answers hs hend)
  | s16le | u16le => exact readLE16_answers hs hend

/-! ### Every command answers -/

theorem exec_pktVal_answers {s : State} (h : Inv s) : ∃ t, exec .pktVal s = .next t := by
  by_cases hv : s.vs = .loading
  · obtain ⟨f, hf⟩ := verdict_answers h.buffer h.parameters
    by_cases hok : f = .ok
    · exact ⟨_, exec_pktVal_ok hv (hok ▸ hf)⟩
    · exact ⟨_, exec_pktVal_fail hv hf hok⟩
  · exact ⟨_, exec_pktVal_refused hv⟩

theorem exec_pktPush_answers (b : Byte) (s : State) : ∃ t, exec (.pktPush b) s = .next t := by
  by_cases hv : s.vs = .loading
  · exact ⟨_, exec_pktPush_loading hv b⟩
  · exact ⟨_, exec_pktPush_refused hv b⟩

/-- A VALID packet has passed the length check, so a field in its window has values. -/
theorem exec_fldDec_answers {s : State} (h : Inv s) (off : Offset) (fmt : Fmt) (sent : Sent) (conv : Conv)
    (pdiv : Pdiv) : ∃ t, exec (.fldDec off fmt sent conv pdiv) s = .next t := by
  by_cases hv : s.vs = .valid
  · cases hw : inWindow s.kind off fmt with
    | false => exact ⟨_, exec_fldDec_outside hv hw sent conv pdiv⟩
    | true =>
      have hs := wholePacketHasValues_of_length h.buffer (length_of_verdict_ok (h.validated hv))
      obtain ⟨bits, hbits⟩ := fieldBits_answers hs hw
      cases ha : isAbsent sent bits with
      | true => exact ⟨_, exec_fldDec_absent hv hw hbits ha conv pdiv⟩
      | false => exact ⟨_, exec_fldDec_value hv hw hbits ha conv pdiv⟩
  · exact ⟨_, exec_fldDec_refused hv off fmt sent conv pdiv⟩

theorem exec_answers {s : State} (h : Inv s) (i : Instr) : ∃ t, exec i s = .next t := by
  cases i with
  | nop => exact ⟨_, exec_nop s⟩
  | crcClr => exact ⟨_, exec_crcClr s⟩
  | crcUpd b => exact ⟨_, exec_crcUpd b s⟩
  | crcRd => exact ⟨_, exec_crcRd s⟩
  | crcCmp hi lo => exact ⟨_, exec_crcCmp hi lo s⟩
  | pktClr k => exact ⟨_, exec_pktClr k s⟩
  | pktPush b => exact exec_pktPush_answers b s
  | pktVal => exact exec_pktVal_answers h
  | fldDec off fmt sent conv pdiv => exact exec_fldDec_answers h off fmt sent conv pdiv
  | regRd r => exact ⟨_, exec_regRd r s⟩

theorem verdict_with_inbox (s : State) (rest : List HostInput) : verdict { s with inbox := rest } = verdict s :=
  verdict_congr (s := { s with inbox := rest }) (t := s) rfl rfl rfl rfl

/-- The invariant does not speak of the inputs that wait. -/
theorem inv_with_inbox {s : State} (h : Inv s) (rest : List HostInput) : Inv { s with inbox := rest } where
  buffer := h.buffer
  failcodeZero := h.failcodeZero
  failcodeRange := h.failcodeRange
  validated hv := (verdict_with_inbox s rest).trans (h.validated hv)
  absentNoResult := h.absentNoResult
  loadingCleared := h.loadingCleared
  resRange := h.resRange
  parameters := h.parameters

theorem step_answers {s : State} (h : Inv s) : ∃ t, step s = .next t := by
  cases hi : s.inbox with
  | nil => exact ⟨_, step_of_inbox_nil hi⟩
  | cons e rest =>
    cases e with
    | reset => exact ⟨_, step_of_reset hi⟩
    | command w =>
      cases hd : decode w with
      | ok i => exact step_of_decode_ok hi hd ▸ exec_answers (inv_with_inbox h rest) i
      | error r => exact ⟨_, step_of_decode_error hi hd⟩

/-! ### The obligations -/

/-- Settles O6: the equation of a step whose word decodes. -/
theorem stepRunsTheDecodedCommand : Obligations.StepRunsTheDecodedCommand := by
  unfold Obligations.StepRunsTheDecodedCommand
  exact fun _ _ _ _ => step_of_decode_ok

/-- Settles O9: by the next input; a command answers because the invariant leaves no byte it reads without a value. -/
theorem everyStepAnswers : Obligations.EveryStepAnswers := by
  unfold Obligations.EveryStepAnswers
  exact fun _ => step_answers

end Sys2Proof.Machine

/-! PROOFS. The registers of 10_state.md section 2 and 3: the STATUS view as a number (R23), the verdict of PKT.VAL as
the spec's verdict on the bytes pushed (41_packet_validate.md R103 to R108), the moves of VS (R16), and which command
writes which item (R10). -/

namespace Sys2Proof.Machine

/-! ### The STATUS view -/

/-- The fields of the STATUS view at their weights (10_state.md R23). -/
theorem statusView_toNat (s : State) :
    (statusView s).toNat = (statusCode s.failcode).toNat * 2 ^ 10 + s.matchFlag.toNat * 2 ^ 9 + s.abs.toNat * 2 ^ 8
      + (kindCode s.kind).toNat * 2 ^ 6 + (vsCode s.vs).toNat * 2 ^ 4 + (statusCode s.lst).toNat := by
  simp only [statusView, toNat_append_eq, BitVec.toNat_ofNat, BitVec.toNat_ofBool]
  omega

/-! ### The verdict on the bytes pushed -/

/-- The two bytes of a CRC, high byte first, as the spec's quotient and remainder. -/
theorem eq_append_iff_div_mod (c : Crc) (hi lo : Byte) :
    c = hi ++ lo ↔ [hi.toNat, lo.toNat] = [c.toNat / 256, c.toNat % 256] := by
  rw [← BitVec.toNat_inj, toNat_append_eq]
  simp only [List.cons.injEq, and_true]
  omega

section
variable {s : State} (hb : bufferHoldsPushedBytes s)
include hb

theorem packetBytes_length : (packetBytes s).length = min s.len.toNat 438 := length_of_range hb

theorem readPkt_eq_ok_iff_getElem? {a : Nat} {b : Byte} : readPkt s a = .ok b ↔ (packetBytes s)[a]? = some b := by
  rw [readPkt_ok_iff, readByte_of_range hb, packetBytes]

/-- Comparing a byte that has a value. -/
theorem readPkt_map_beq {a : Nat} (ha : a < (packetBytes s).length) (v : Byte) :
    (readPkt s a).map (· == v) = .ok (decide ((packetBytes s)[a]? = some v)) := by
  have hget := List.getElem?_eq_getElem ha
  simp [(readPkt_eq_ok_iff_getElem? hb).mpr hget, hget, Except.map, beq_eq_decide]

theorem readRange_eq_take_drop {a n : Nat} (h : a + n ≤ (packetBytes s).length) :
    readRange s a n = .ok (((packetBytes s).drop a).take n) := by
  refine readRange_ok_iff.mpr ⟨by simp; omega, fun i hi => ?_⟩
  rw [readByte_of_range hb, List.getElem?_take_of_lt hi, List.getElem?_drop, packetBytes]

end

section
variable {s : State} (hb : bufferHoldsPushedBytes s) (hl : s.len.toNat = expLen s.kind)
include hb hl

/-- A packet of the expected length lies wholly in the buffer. -/
theorem packetBytes_length_eq_expLen : (packetBytes s).length = expLen s.kind := by
  rw [packetBytes_length hb, hl]
  exact Nat.min_eq_left (expLen_le_bufSize s.kind)

theorem ackOk_eq : ackOk s = .ok (decide ¬(s.kind = .time ∧ (packetBytes s)[0]? ≠ some 0x06)) := by
  have hlen := packetBytes_length_eq_expLen hb hl
  cases hk : s.kind <;> simp only [ackOk, hk]
  case time => simp [readPkt_map_beq hb (a := 0) (by simp [hlen, hk, expLen]), ackByte]
  all_goals simp

theorem tagOk_eq :
    tagOk s = .ok (decide ¬((s.kind = .loop ∨ s.kind = .loop2) ∧ (packetBytes s).take 3 ≠ [0x4C, 0x4F, 0x4F])) := by
  have hlen := packetBytes_length_eq_expLen hb hl
  cases hk : s.kind <;> simp only [tagOk, hk]
  case loop | loop2 =>
    simp [readRange_eq_take_drop hb (a := 0) (n := 3) (by simp [hlen, hk, expLen]), tagBytes, Except.map, beq_eq_decide]
  all_goals simp

theorem typeOk_eq (hc : s.cfg.inRange) :
    typeOk s = .ok (decide ¬((s.kind = .loop ∨ s.kind = .loop2) ∧
      (packetBytes s)[s.cfg.typeOff]? ≠ some (if s.kind = .loop then 0 else 1))) := by
  have hlen := packetBytes_length_eq_expLen hb hl
  obtain ⟨-, hmax⟩ := hc
  cases hk : s.kind <;> simp only [typeOk, hk]
  case loop | loop2 =>
    have ha : s.cfg.typeOff < (packetBytes s).length := by simp only [hlen, hk, expLen]; omega
    simp [readPkt_map_beq hb ha, kindCode]
  all_goals simp

/-- The CRC field is the last two bytes, and the check compares them with the CRC of the bytes before (R108). -/
theorem crcOk_eq :
    crcOk s = .ok (decide ¬(((packetBytes s).drop (expLen s.kind - 2)).map BitVec.toNat ≠
      [(crc16 (((packetBytes s).take (expLen s.kind - 2)).drop (crcLo s.kind))).toNat / 256,
       (crc16 (((packetBytes s).take (expLen s.kind - 2)).drop (crcLo s.kind))).toNat % 256])) := by
  have hlen := packetBytes_length_eq_expLen hb hl
  have hfield : crcLo s.kind + 2 ≤ expLen s.kind := by cases s.kind <;> decide
  have hcovered : coveredBytes s = .ok (((packetBytes s).take (expLen s.kind - 2)).drop (crcLo s.kind)) := by
    rw [List.drop_take]
    exact readRange_eq_take_drop hb (by rw [hlen, crcFieldAt]; omega)
  obtain ⟨hi, lo, hdrop⟩ : ∃ hi lo, (packetBytes s).drop (expLen s.kind - 2) = [hi, lo] :=
    List.length_eq_two.mp (by rw [List.length_drop, hlen]; omega)
  have hbyte (i : Nat) : readByte s.pkt (expLen s.kind - 2 + i) = [hi, lo][i]? := by
    rw [readByte_of_range hb, ← hdrop, List.getElem?_drop, packetBytes]
  have hread : readBE16 s (crcFieldAt s.kind) = .ok (hi ++ lo) :=
    readBE16_ok_iff.mpr ⟨hi, lo, hbyte 0, hbyte 1, rfl⟩
  simp only [crcOk, hcovered, hread, hdrop, Except.map, List.map_cons, List.map_nil, beq_eq_decide,
    eq_append_iff_div_mod, ne_eq, not_not]

end

/-- A check that answers takes a branch: its code should it find its failure `p`, else what the later checks answer. -/
theorem checkThen_decide_not {p : Prop} [Decidable p] (f g : Status) :
    checkThen (.ok (decide ¬p)) f (.ok g) = .ok (if p then f else g) := by
  by_cases hp : p <;> simp [checkThen, hp]

/-- The spec's verdict with the constants of 20_memory.md R54 under their names. -/
theorem specVerdict_eq (typeOff : Nat) (k : Kind) (len : Nat) (bytes : List Byte) :
    specVerdict typeOff k len bytes =
      if len ≠ expLen k then .lengthMismatch
      else if k = .time ∧ bytes[0]? ≠ some 0x06 then .commandNotAcknowledged
      else if (k = .loop ∨ k = .loop2) ∧ bytes.take 3 ≠ [0x4C, 0x4F, 0x4F] then .tagMismatch
      else if (k = .loop ∨ k = .loop2) ∧ bytes[typeOff]? ≠ some (if k = .loop then 0 else 1) then .typeMismatch
      else if (bytes.drop (expLen k - 2)).map BitVec.toNat ≠
          [(crc16 ((bytes.take (expLen k - 2)).drop (crcLo k))).toNat / 256,
           (crc16 ((bytes.take (expLen k - 2)).drop (crcLo k))).toNat % 256] then .checksumMismatch
      else .ok := by
  cases k <;> rfl

/-- PKT.VAL's checks, one after another, give the spec's verdict on the bytes pushed (41_packet_validate.md R103). -/
theorem verdict_eq_specVerdict {s : State} (hb : bufferHoldsPushedBytes s) (hc : s.cfg.inRange) :
    verdict s = .ok (specVerdict s.cfg.typeOff s.kind s.len.toNat (packetBytes s)) := by
  rw [specVerdict_eq]
  by_cases hl : s.len.toNat = expLen s.kind
  · rw [verdict, lengthOk_eq_true_iff.mpr hl, ackOk_eq hb hl, tagOk_eq hb hl, typeOk_eq hb hl hc, crcOk_eq hb hl,
      if_neg (not_not_intro hl)]
    simp only [checkThen_decide_not]
    rfl
  · have hlen : lengthOk s = .ok false := by simp [lengthOk, hl]
    rw [verdict, hlen, if_pos hl]
    rfl

/-! ### The moves of VS -/

/-- The machine's window check is the payload window of 20_memory.md R54. -/
theorem inWindow_eq_true_iff {k : Kind} {off : Offset} {fmt : Fmt} :
    inWindow k off fmt = true ↔ insidePayload k off fmt := by
  cases k <;> cases fmt <;> simp [inWindow, insidePayload, payLo, payHi, fmtWidth]

theorem exec_pktPush_vs {s t : State} {b : Byte} (h : exec (.pktPush b) s = .next t) :
    t.vs = s.vs ∧ (s.vs ≠ .loading → t.lst = .sequenceError) := by
  rcases exec_pktPush_cases h with ⟨hv, rfl⟩ | ⟨hv, rfl⟩
  · simp [hv]
  · simp

theorem exec_pktVal_vs {s t : State} (h : exec .pktVal s = .next t) :
    (s.vs = .loading → ∃ f, verdict s = .ok f ∧ t.vs = if f = .ok then .valid else .failed) ∧
    (s.vs ≠ .loading → t.vs = s.vs ∧ t.lst = .sequenceError) := by
  rcases exec_pktVal_cases h with ⟨hv, hok, rfl⟩ | ⟨f, hv, hfail, hf, rfl⟩ | ⟨hv, rfl⟩
  · exact ⟨fun _ => ⟨.ok, hok, rfl⟩, fun hn => absurd hv hn⟩
  · exact ⟨fun _ => ⟨f, hfail, by simp [hf]⟩, fun hn => absurd hv hn⟩
  · exact ⟨fun hy => absurd hy hv, fun _ => ⟨rfl, rfl⟩⟩

theorem exec_fldDec_vs {s t : State} {off : Offset} {fmt : Fmt} {sent : Sent} {conv : Conv} {pdiv : Pdiv}
    (h : exec (.fldDec off fmt sent conv pdiv) s = .next t) :
    (s.vs = .valid → (insidePayload s.kind off fmt → t.vs = .valid) ∧
      (¬ insidePayload s.kind off fmt → t.vs = .failed)) ∧
    (s.vs ≠ .valid → t.vs = s.vs ∧ t.lst = .sequenceError) := by
  rw [← inWindow_eq_true_iff]
  rcases exec_fldDec_cases h with ⟨hv, rfl⟩ | ⟨hv, hw, rfl⟩ | ⟨bits, hv, hw, -, -, rfl⟩ | ⟨bits, hv, hw, -, -, rfl⟩
  · simp [hv]
  · simp [hv, hw]
  · simp [hv, hw]
  · simp [hv, hw]

/-! ### The bytes PKT.PUSH writes -/

/-- A push changes the byte at LEN alone, and none once LEN has reached 438 (41_packet_validate.md R102). -/
theorem readByte_appendByte_ne {s : State} {b : Byte} {a : Nat}
    (h : readByte (appendByte s b).pkt a ≠ readByte s.pkt a) : a = s.len.toNat ∧ a < 438 := by
  rw [appendByte_pkt] at h
  split at h
  case isTrue hlt =>
    have ha : a = s.len.toNat := by
      by_contra hne
      exact h (readByte_storeByte_other s.pkt b hne)
    exact ⟨ha, ha ▸ hlt⟩
  case isFalse => exact absurd rfl h

/-! ### The obligations -/

/-- Settles O36: FLD.DEC answers OK from VALID alone, and a VALID packet has passed the checks (10_state.md R27 item 3),
which are the spec's. -/
theorem onlyValidatedBytesAreDecoded : Obligations.OnlyValidatedBytesAreDecoded := by
  unfold Obligations.OnlyValidatedBytesAreDecoded
  intro off fmt sent conv pdiv s t r hinv h hr hst
  have hvalid : s.vs = .valid := by
    rcases exec_fldDec_cases h with ⟨-, rfl⟩ | ⟨hv, -⟩ | ⟨_, hv, -⟩ | ⟨_, hv, -⟩
    · obtain rfl : _ = r := by simpa using hr
      cases hst
    all_goals exact hv
  have hspec := verdict_eq_specVerdict hinv.buffer hinv.parameters
  rw [hinv.validated hvalid] at hspec
  exact (Except.ok.inj hspec).symm

/-- Settles O46: the view is the sum of its fields at their weights, and each field is below the next one's weight. -/
theorem statusViewPacksTheSmallRegisters : Obligations.StatusViewPacksTheSmallRegisters := by
  unfold Obligations.StatusViewPacksTheSmallRegisters
  intro s
  have hview := statusView_toNat s
  have hlst := (statusCode s.lst).isLt
  have hvs := (vsCode s.vs).isLt
  have hkind := (kindCode s.kind).isLt
  have habs := s.abs.toNat_le
  have hmatch := s.matchFlag.toNat_le
  have hfail := (statusCode s.failcode).isLt
  refine ⟨?lst, ?vs, ?kind, ?abs, ?matchFlag, ?failcode, by omega⟩
  case lst =>
    have e : (statusView s).toNat % 16 = (statusCode s.lst).toNat := by omega
    rw [e]; cases s.lst <;> rfl
  case vs =>
    have e : (statusView s).toNat / 16 % 4 = (vsCode s.vs).toNat := by omega
    rw [e]; cases s.vs <;> rfl
  case kind =>
    have e : (statusView s).toNat / 64 % 4 = (kindCode s.kind).toNat := by omega
    rw [e]; cases s.kind <;> rfl
  case abs =>
    have e : (statusView s).toNat / 256 % 2 = s.abs.toNat := by omega
    rw [e]; cases s.abs <;> rfl
  case matchFlag =>
    have e : (statusView s).toNat / 512 % 2 = s.matchFlag.toNat := by omega
    rw [e]; cases s.matchFlag <;> rfl
  case failcode =>
    have e : (statusView s).toNat / 1024 % 16 = (statusCode s.failcode).toNat := by omega
    rw [e]; cases s.failcode <;> rfl

/-- Settles O47: by the next input and, for a word that decodes, by the command. -/
theorem sequencingFollowsTheTable : Obligations.SequencingFollowsTheTable := by
  unfold Obligations.SequencingFollowsTheTable
  intro s t e rest hin h
  cases e with
  | reset =>
    rw [step_of_reset hin] at h
    obtain rfl := Host.Outcome.next.inj h
    rfl
  | command w =>
    cases hd : decode w with
    | error r =>
      rw [step_of_decode_error hin hd] at h
      obtain rfl := Host.Outcome.next.inj h
      simp only [hd]
      rfl
    | ok i =>
      rw [step_of_decode_ok hin hd] at h
      simp only [hd]
      cases i with
      | pktPush b =>
        have hvs := exec_pktPush_vs h
        exact hvs
      | pktVal => exact verdict_with_inbox s rest ▸ exec_pktVal_vs h
      | fldDec off fmt sent conv pdiv =>
        have hvs := exec_fldDec_vs h
        exact hvs
      | nop | crcClr | crcUpd | crcRd | crcCmp | pktClr | regRd =>
        obtain rfl := Host.Outcome.next.inj h
        rfl

/-- Settles O51: by the command, from what each leaves in every item; PKT.PUSH stores at LEN alone. -/
theorem onlyTheListedCommandsWriteEachItem : Obligations.OnlyTheListedCommandsWriteEachItem := by
  unfold Obligations.OnlyTheListedCommandsWriteEachItem
  intro i s t h
  cases i with
  | nop | crcClr | crcUpd | crcRd | crcCmp | pktClr | regRd =>
    obtain rfl := Host.Outcome.next.inj h
    simp
  | pktPush b =>
    rcases exec_pktPush_cases h with ⟨-, rfl⟩ | ⟨-, rfl⟩
    · simpa using fun a => readByte_appendByte_ne (s := s) (b := b) (a := a)
    · simp
  | pktVal => rcases exec_pktVal_cases h with ⟨-, -, rfl⟩ | ⟨f, -, -, -, rfl⟩ | ⟨-, rfl⟩ <;> simp
  | fldDec off fmt sent conv pdiv =>
    rcases exec_fldDec_cases h with ⟨-, rfl⟩ | ⟨-, -, rfl⟩ | ⟨bits, -, -, -, -, rfl⟩ | ⟨bits, -, -, -, -, rfl⟩ <;> simp

end Sys2Proof.Machine

/-! PROOFS. The packet buffer of 20_memory.md section 3: what a PKT.PUSH writes (R49), what any command and any step can
make of PKT, and with it the canonical form. -/

namespace Sys2Proof.Machine

/-! ### What is written to PKT -/

/-- Once for all: after an append the byte at LEN is the one appended if LEN is below 438, and every other offset reads
as before (41_packet_validate.md R102). -/
theorem readByte_appendByte (s : State) (b : Byte) (a : Nat) :
    readByte (appendByte s b).pkt a = if a = s.len.toNat ∧ s.len.toNat < 438 then some b else readByte s.pkt a := by
  rw [appendByte_pkt]
  by_cases hl : s.len.toNat < 438
  · simp [bufSize, hl, readByte_storeByte]
  · simp [bufSize, hl]

/-- A command leaves PKT, empties it (PKT.CLR) or appends a byte to it (PKT.PUSH). -/
theorem exec_pkt_cases {i : Instr} {s t : State} (h : exec i s = .next t) :
    t.pkt = s.pkt ∨ t.pkt = [] ∨ ∃ b, t.pkt = (appendByte s b).pkt := by
  cases i with
  | nop | crcClr | crcUpd | crcRd | crcCmp | regRd =>
    obtain rfl := Host.Outcome.next.inj h
    exact .inl rfl
  | pktClr =>
    obtain rfl := Host.Outcome.next.inj h
    exact .inr (.inl rfl)
  | pktPush b =>
    rcases exec_pktPush_cases h with ⟨-, rfl⟩ | ⟨-, rfl⟩
    · exact .inr (.inr ⟨b, rfl⟩)
    · exact .inl rfl
  | pktVal => rcases exec_pktVal_cases h with ⟨-, -, rfl⟩ | ⟨_, -, -, -, rfl⟩ | ⟨-, rfl⟩ <;> exact .inl rfl
  | fldDec =>
    rcases exec_fldDec_cases h with ⟨-, rfl⟩ | ⟨-, -, rfl⟩ | ⟨_, -, -, -, -, rfl⟩ | ⟨_, -, -, -, -, rfl⟩ <;>
      exact .inl rfl

/-- A step leaves PKT, empties it or appends a byte to it. -/
theorem step_pkt_cases {s t : State} (h : step s = .next t) :
    t.pkt = s.pkt ∨ t.pkt = [] ∨ ∃ b, t.pkt = (appendByte s b).pkt := by
  rcases step_cases h with ⟨-, rfl⟩ | ⟨_, -, rfl⟩ | ⟨_, _, _, -, -, hexec⟩ | ⟨_, _, _, -, -, rfl⟩
  · exact .inl rfl
  · exact .inr (.inl rfl)
  · have hcases := exec_pkt_cases hexec
    exact hcases
  · exact .inl rfl

/-! ### The obligations -/

/-- Settles O26: a push while LOADING is an append, and an append writes at LEN alone, below 438. -/
theorem pktPushStoresOnlyAtLen : Obligations.PktPushStoresOnlyAtLen := by
  unfold Obligations.PktPushStoresOnlyAtLen
  intro b s hv
  refine ⟨_, exec_pktPush_loading hv b, fun hl => ?stored, fun a ha => ?kept⟩
  case stored => rw [succeed_pkt, readByte_appendByte, if_pos ⟨rfl, hl⟩]
  case kept => rw [succeed_pkt, readByte_appendByte, if_neg (by omega)]

/-- Settles O55: the empty buffer is canonical, and an append keeps the form. -/
theorem everyStepKeepsTheBufferCanonical : Obligations.EveryStepKeepsTheBufferCanonical := by
  unfold Obligations.EveryStepKeepsTheBufferCanonical
  intro s t hwf h
  rcases step_pkt_cases h with hkept | hempty | ⟨b, happended⟩
  · exact hkept ▸ hwf
  · exact hempty ▸ List.Pairwise.nil
  · exact happended ▸ appendByte_wf hwf b

end Sys2Proof.Machine

/-! PROOFS. The command word as the host sees it (30_encoding.md R61, R62, R66): when the decoder reads a command from a
word, the list of illegal words, the opcode map; and the one response of every command (R71). -/

namespace Sys2Proof.Machine

/-! ### The codes of the operand fields -/

theorem fmtOfCode_eq_some_iff {c : BitVec 2} {f : Fmt} : fmtOfCode c = some f ↔ c = fmtCode f :=
  ⟨fun h => (fmtCode_of_fmtOfCode h).symm, fun h => h ▸ fmtOfCode_fmtCode f⟩

theorem sentOfCode_eq_some_iff {c : BitVec 3} {x : Sent} : sentOfCode c = some x ↔ c = sentCode x :=
  ⟨fun h => (sentCode_of_sentOfCode h).symm, fun h => h ▸ sentOfCode_sentCode x⟩

theorem convOfCode_eq_some_iff {c : BitVec 4} {x : Conv} : convOfCode c = some x ↔ c = convCode x :=
  ⟨fun h => (convCode_of_convOfCode h).symm, fun h => h ▸ convOfCode_convCode x⟩

theorem regOfCode_eq_some_iff {c : BitVec 4} {r : RegName} : regOfCode c = some r ↔ c = regCode r :=
  ⟨fun h => (regCode_of_regOfCode h).symm, fun h => h ▸ regOfCode_regCode r⟩

theorem pdivOfCode_eq_iff {c : BitVec 2} {p : Pdiv} : pdivOfCode c = p ↔ c = pdivCode p :=
  ⟨fun h => h ▸ (pdivCode_pdivOfCode c).symm, fun h => h ▸ pdivOfCode_pdivCode p⟩

/-- FMT 0 to 2 name a format; 3 is reserved (30_encoding.md R65). -/
theorem exists_fmtCode_iff {n : Nat} (hn : n < 4) : (∃ f, n = (fmtCode f).toNat) ↔ n ≠ 3 := by
  constructor
  · rintro ⟨f, rfl⟩
    cases f <;> decide
  · intro h
    obtain rfl | rfl | rfl : n = 0 ∨ n = 1 ∨ n = 2 := by omega
    exacts [⟨.u8, rfl⟩, ⟨.s16le, rfl⟩, ⟨.u16le, rfl⟩]

/-- SENT 0 to 4 name a sentinel (30_encoding.md R65). -/
theorem exists_sentCode_iff {n : Nat} : (∃ x, n = (sentCode x).toNat) ↔ n < 5 := by
  constructor
  · rintro ⟨x, rfl⟩
    cases x <;> decide
  · intro h
    obtain rfl | rfl | rfl | rfl | rfl : n = 0 ∨ n = 1 ∨ n = 2 ∨ n = 3 ∨ n = 4 := by omega
    exacts [⟨.noSentinel, rfl⟩, ⟨.patFFFF, rfl⟩, ⟨.pat7FFF, rfl⟩, ⟨.patFF, rfl⟩, ⟨.patZero, rfl⟩]

/-- CONV 0 to 6 name a conversion (30_encoding.md R65). -/
theorem exists_convCode_iff {n : Nat} : (∃ x, n = (convCode x).toNat) ↔ n < 7 := by
  constructor
  · rintro ⟨x, rfl⟩
    cases x <;> decide
  · intro h
    obtain rfl | rfl | rfl | rfl | rfl | rfl | rfl :
      n = 0 ∨ n = 1 ∨ n = 2 ∨ n = 3 ∨ n = 4 ∨ n = 5 ∨ n = 6 := by omega
    exacts [⟨.raw, rfl⟩, ⟨.f2c, rfl⟩, ⟨.mph2ms, rfl⟩, ⟨.inhg2hpa, rfl⟩, ⟨.clicks2mm, rfl⟩, ⟨.compass, rfl⟩,
      ⟨.hhmm, rfl⟩]

/-- REG 0 to 4 name a register (10_state.md R24). -/
theorem exists_regCode_iff {n : Nat} : (∃ r, n = (regCode r).toNat) ↔ n < 5 := by
  constructor
  · rintro ⟨r, rfl⟩
    cases r <;> decide
  · intro h
    obtain rfl | rfl | rfl | rfl | rfl : n = 0 ∨ n = 1 ∨ n = 2 ∨ n = 3 ∨ n = 4 := by omega
    exacts [⟨.acc, rfl⟩, ⟨.status, rfl⟩, ⟨.len, rfl⟩, ⟨.raw, rfl⟩, ⟨.res, rfl⟩]

/-- Item 6 of 30_encoding.md R66 in the numbers of the fields. -/
theorem pdivFits_iff {conv : Conv} {pdiv : Pdiv} :
    pdivFits conv pdiv = true ↔ ¬ ((convCode conv).toNat ∈ [5, 6] ∧ (pdivCode pdiv).toNat ≠ 0) := by
  cases conv <;> cases pdiv <;> decide

/-- Item 7 of 30_encoding.md R66 in the numbers of the fields. -/
theorem fmtFits_iff {conv : Conv} {fmt : Fmt} :
    fmtFits conv fmt = true ↔ ¬ ((convCode conv).toNat = 6 ∧ (fmtCode fmt).toNat = 1) := by
  cases conv <;> cases fmt <;> decide

/-! ### The words a command is read from -/

/-- `CMD[hi:lo]` is the field the decoder cuts. -/
theorem field_eq_iff {w : CmdWord} {lo n : Nat} {c : BitVec n} :
    w.extractLsb' lo n = c ↔ w.toNat / 2 ^ lo % 2 ^ n = c.toNat := by
  rw [← BitVec.toNat_inj, toNat_field]

/-- The word has opcode `op`, and its bits 27 down to `k`, the must-be-zero bits of the row, are 0 (30_encoding.md R61). -/
def inRow (w : CmdWord) (op k : Nat) : Prop := wordBits w 31 28 = op ∧ wordBits w 27 k = 0

/-- The word has the row of the command, and in its fields the operands of the command (30_encoding.md R61). -/
def spells (w : CmdWord) : Instr → Prop
  | .nop => inRow w 0 0
  | .crcClr => inRow w 1 0
  | .crcUpd b => inRow w 2 8 ∧ w.extractLsb' 0 8 = b
  | .crcRd => inRow w 3 0
  | .crcCmp hi lo => inRow w 4 16 ∧ w.extractLsb' 8 8 = hi ∧ w.extractLsb' 0 8 = lo
  | .pktClr k => inRow w 5 2 ∧ kindOfCode (w.extractLsb' 0 2) = k
  | .pktPush b => inRow w 6 8 ∧ w.extractLsb' 0 8 = b
  | .pktVal => inRow w 7 0
  | .fldDec off fmt sent conv pdiv =>
    inRow w 8 20 ∧ w.extractLsb' 0 9 = off ∧ wordBits w 10 9 = (fmtCode fmt).toNat ∧
      wordBits w 13 11 = (sentCode sent).toNat ∧ wordBits w 17 14 = (convCode conv).toNat ∧
      wordBits w 19 18 = (pdivCode pdiv).toNat ∧ pdivFits conv pdiv = true ∧ fmtFits conv fmt = true
  | .regRd r => inRow w 9 4 ∧ wordBits w 3 0 = (regCode r).toNat

theorem inRow_iff {w : CmdWord} {op k : Nat} :
    inRow w op k ↔ (w.extractLsb' 28 4).toNat = op ∧ w.extractLsb' k (28 - k) = 0#(28 - k) := by
  simp only [field_eq_iff, toNat_field, BitVec.toNat_zero]
  rfl

theorem whenZero_eq_ok_iff {n : Nat} {mbz : BitVec n} {i j : Instr} :
    whenZero mbz i = .ok j ↔ mbz = 0#n ∧ i = j := by
  by_cases hz : mbz = 0#n <;> simp [whenZero, hz]

theorem decodeFieldDescriptor_eq_ok_iff {w : CmdWord} {i : Instr} :
    decodeFieldDescriptor w = .ok i ↔ w.extractLsb' 20 8 = 0#8 ∧ ∃ off fmt sent conv pdiv,
      w.extractLsb' 0 9 = off ∧ w.extractLsb' 9 2 = fmtCode fmt ∧ w.extractLsb' 11 3 = sentCode sent ∧
      w.extractLsb' 14 4 = convCode conv ∧ w.extractLsb' 18 2 = pdivCode pdiv ∧
      pdivFits conv pdiv = true ∧ fmtFits conv fmt = true ∧ .fldDec off fmt sent conv pdiv = i := by
  simp only [← fmtOfCode_eq_some_iff, ← sentOfCode_eq_some_iff, ← convOfCode_eq_some_iff, ← pdivOfCode_eq_iff]
  unfold decodeFieldDescriptor
  by_cases hz : w.extractLsb' 20 8 = 0#8
  case neg => simp [hz]
  cases fmtOfCode (w.extractLsb' 9 2) with
  | none => simp [hz]
  | some fmt =>
    cases sentOfCode (w.extractLsb' 11 3) with
    | none => simp [hz]
    | some sent =>
      cases convOfCode (w.extractLsb' 14 4) with
      | none => simp [hz]
      | some conv =>
        cases hp : pdivFits conv (pdivOfCode (w.extractLsb' 18 2)) <;> cases hf : fmtFits conv fmt <;>
          simp [hz, hp, hf]

theorem decodeRegister_eq_ok_iff {w : CmdWord} {i : Instr} :
    decodeRegister w = .ok i ↔ w.extractLsb' 4 24 = 0#24 ∧ ∃ r, w.extractLsb' 0 4 = regCode r ∧ .regRd r = i := by
  simp only [← regOfCode_eq_some_iff]
  unfold decodeRegister
  by_cases hz : w.extractLsb' 4 24 = 0#24
  · cases regOfCode (w.extractLsb' 0 4) <;> simp [hz]
  · simp [hz]

theorem spells_of_decode {w : CmdWord} {i : Instr} (h : decode w = .ok i) : spells w i := by
  unfold decode at h
  split at h
  case h_9 hop =>
    obtain ⟨hz, off, fmt, sent, conv, pdiv, hoff, hfmt, hsent, hconv, hpdiv, hp, hf, rfl⟩ :=
      decodeFieldDescriptor_eq_ok_iff.mp h
    exact ⟨inRow_iff.mpr ⟨hop, hz⟩, hoff, field_eq_iff.mp hfmt, field_eq_iff.mp hsent, field_eq_iff.mp hconv,
      field_eq_iff.mp hpdiv, hp, hf⟩
  case h_10 hop =>
    obtain ⟨hz, r, hr, rfl⟩ := decodeRegister_eq_ok_iff.mp h
    exact ⟨inRow_iff.mpr ⟨hop, hz⟩, field_eq_iff.mp hr⟩
  case h_11 => cases h
  all_goals
    rename_i hop
    obtain ⟨hz, rfl⟩ := whenZero_eq_ok_iff.mp h
    simpa [spells] using inRow_iff.mpr ⟨hop, hz⟩

theorem decode_of_spells {w : CmdWord} {i : Instr} (h : spells w i) : decode w = .ok i := by
  cases i with
  | nop | crcClr | crcRd | pktVal =>
    obtain ⟨hop, hz⟩ := inRow_iff.mp h
    simpa only [decode, hop] using whenZero_eq_ok_iff.mpr ⟨hz, rfl⟩
  | crcUpd | pktClr | pktPush =>
    obtain ⟨hrow, rfl⟩ := h
    obtain ⟨hop, hz⟩ := inRow_iff.mp hrow
    simpa only [decode, hop] using whenZero_eq_ok_iff.mpr ⟨hz, rfl⟩
  | crcCmp =>
    obtain ⟨hrow, rfl, rfl⟩ := h
    obtain ⟨hop, hz⟩ := inRow_iff.mp hrow
    simpa only [decode, hop] using whenZero_eq_ok_iff.mpr ⟨hz, rfl⟩
  | fldDec =>
    obtain ⟨hrow, hoff, hfmt, hsent, hconv, hpdiv, hp, hf⟩ := h
    obtain ⟨hop, hz⟩ := inRow_iff.mp hrow
    simpa only [decode, hop] using decodeFieldDescriptor_eq_ok_iff.mpr ⟨hz, _, _, _, _, _, hoff,
      field_eq_iff.mpr hfmt, field_eq_iff.mpr hsent, field_eq_iff.mpr hconv, field_eq_iff.mpr hpdiv, hp, hf, rfl⟩
  | regRd =>
    obtain ⟨hrow, hr⟩ := h
    obtain ⟨hop, hz⟩ := inRow_iff.mp hrow
    simpa only [decode, hop] using decodeRegister_eq_ok_iff.mpr ⟨hz, _, field_eq_iff.mpr hr, rfl⟩

/-- Once for all: the decoder reads a command from exactly the words that have its row and its operands. -/
theorem decode_eq_ok_iff_spells {w : CmdWord} {i : Instr} : decode w = .ok i ↔ spells w i :=
  ⟨spells_of_decode, decode_of_spells⟩

/-! ### The list of illegal words (30_encoding.md R66) -/

theorem not_isIllegalWord_of_spells {w : CmdWord} {i : Instr} (h : spells w i) : ¬ isIllegalWord w := by
  cases i with
  | nop | crcClr | crcRd | pktVal =>
    obtain ⟨hop, hz⟩ := h
    simp [isIllegalWord, hop, hz]
  | crcUpd | crcCmp | pktClr | pktPush =>
    obtain ⟨⟨hop, hz⟩, -⟩ := h
    simp [isIllegalWord, hop, hz]
  | fldDec off fmt sent conv pdiv =>
    obtain ⟨⟨hop, hz⟩, -, hfmt, hsent, hconv, hpdiv, hp, hf⟩ := h
    have hfmt3 : wordBits w 10 9 ≠ 3 := (exists_fmtCode_iff (Nat.mod_lt _ (by decide))).mp ⟨fmt, hfmt⟩
    have hsent5 : wordBits w 13 11 < 5 := exists_sentCode_iff.mp ⟨sent, hsent⟩
    have hconv7 : wordBits w 17 14 < 7 := exists_convCode_iff.mp ⟨conv, hconv⟩
    rw [pdivFits_iff, ← hconv, ← hpdiv] at hp
    rw [fmtFits_iff, ← hconv, ← hfmt] at hf
    simpa [isIllegalWord, hop, hz, hfmt3, hsent5, hconv7] using And.intro hp hf
  | regRd r =>
    obtain ⟨⟨hop, hz⟩, hr⟩ := h
    have hreg5 : wordBits w 3 0 < 5 := exists_regCode_iff.mp ⟨r, hr⟩
    simpa [isIllegalWord, hop, hz] using hreg5

theorem exists_spells_of_not_isIllegalWord {w : CmdWord} (h : ¬ isIllegalWord w) : ∃ i, spells w i := by
  simp only [isIllegalWord, not_or, not_and, not_not] at h
  obtain ⟨hop10, hplain, hbyte, hcmp, hkind, hfldz, hregz, hfmt, hsent, hconv, hpdiv, hsigned, hreg⟩ := h
  obtain hop | hop | hop | hop | hop | hop | hop | hop | hop | hop :
    wordBits w 31 28 = 0 ∨ wordBits w 31 28 = 1 ∨ wordBits w 31 28 = 2 ∨ wordBits w 31 28 = 3 ∨
    wordBits w 31 28 = 4 ∨ wordBits w 31 28 = 5 ∨ wordBits w 31 28 = 6 ∨ wordBits w 31 28 = 7 ∨
    wordBits w 31 28 = 8 ∨ wordBits w 31 28 = 9 := by omega
  · exact ⟨.nop, hop, hplain (by simp [hop])⟩
  · exact ⟨.crcClr, hop, hplain (by simp [hop])⟩
  · exact ⟨.crcUpd _, ⟨hop, hbyte (by simp [hop])⟩, rfl⟩
  · exact ⟨.crcRd, hop, hplain (by simp [hop])⟩
  · exact ⟨.crcCmp _ _, ⟨hop, hcmp hop⟩, rfl, rfl⟩
  · exact ⟨.pktClr _, ⟨hop, hkind hop⟩, rfl⟩
  · exact ⟨.pktPush _, ⟨hop, hbyte (by simp [hop])⟩, rfl⟩
  · exact ⟨.pktVal, hop, hplain (by simp [hop])⟩
  · obtain ⟨fmt, hfmt⟩ := (exists_fmtCode_iff (Nat.mod_lt _ (by decide))).mpr (hfmt hop)
    obtain ⟨sent, hsent⟩ := exists_sentCode_iff.mpr (not_le.mp (hsent hop))
    obtain ⟨conv, hconv⟩ := exists_convCode_iff.mpr (not_le.mp (hconv hop))
    have hpdivCode : wordBits w 19 18 = (pdivCode (pdivOfCode (w.extractLsb' 18 2))).toNat := by
      rw [pdivCode_pdivOfCode, toNat_field]
    refine ⟨.fldDec _ fmt sent conv _, ⟨hop, hfldz hop⟩, rfl, hfmt, hsent, hconv, hpdivCode, ?_, ?_⟩
    · rw [pdivFits_iff, ← hconv, ← hpdivCode]
      exact fun h => h.2 (hpdiv hop h.1)
    · rw [fmtFits_iff, ← hconv, ← hfmt]
      exact fun h => hsigned hop h.1 h.2
  · obtain ⟨r, hr⟩ := exists_regCode_iff.mpr (not_le.mp (hreg hop))
    exact ⟨.regRd r, ⟨hop, hregz hop⟩, hr⟩

/-- The words that spell a command are exactly those not on the list. -/
theorem exists_decode_iff {w : CmdWord} : (∃ i, decode w = .ok i) ↔ ¬ isIllegalWord w := by
  simp only [decode_eq_ok_iff_spells]
  exact ⟨fun ⟨_, h⟩ => not_isIllegalWord_of_spells h, exists_spells_of_not_isIllegalWord⟩

theorem exists_decode_error_iff {w : CmdWord} : (∃ r, decode w = .error r) ↔ isIllegalWord w := by
  rw [← not_iff_not, ← exists_decode_iff]
  cases decode w <;> simp

/-! ### The opcode map (30_encoding.md R62) -/

/-- The match and mask of a row select the words with its opcode and clear must-be-zero bits. -/
theorem and_rowMask_eq_iff {w : CmdWord} (op k : Nat) (hop : op < 16 := by decide) (hk : k ≤ 28 := by decide) :
    w &&& (BitVec.allOnes 32 <<< k) = BitVec.ofNat 32 (op * 2 ^ 28) ↔ inRow w op k := by
  have hsplit : 2 ^ 28 = 2 ^ (28 - k) * 2 ^ k := by rw [← pow_add]; congr 1; omega
  have hv : op * 2 ^ (28 - k) < 2 ^ (32 - k) := by
    rw [show 32 - k = 4 + (28 - k) by omega, pow_add]
    exact Nat.mul_lt_mul_of_pos_right hop (by positivity)
  have hopcode : wordBits w 31 28 = w.toNat / 2 ^ k / 2 ^ (28 - k) := by
    rw [Nat.div_div_eq_div_mul, mul_comm, ← hsplit]
    have := w.isLt
    show w.toNat / 2 ^ 28 % 2 ^ 4 = _
    omega
  rw [hsplit, ← mul_assoc, and_highMask_eq_iff w k _ (by omega) hv]
  unfold inRow
  rw [hopcode]
  show _ ↔ _ ∧ w.toNat / 2 ^ k % 2 ^ (28 - k) = 0
  constructor
  · intro h
    rw [h]
    exact ⟨Nat.mul_div_cancel _ (by positivity), Nat.mul_mod_left _ _⟩
  · rintro ⟨hd, hm⟩
    rw [← hd, Nat.div_mul_cancel (Nat.dvd_of_mod_eq_zero hm)]

/-- OP of a command (30_encoding.md R62). -/
def opcode : Instr → Nat
  | .nop => 0
  | .crcClr => 1
  | .crcUpd _ => 2
  | .crcRd => 3
  | .crcCmp _ _ => 4
  | .pktClr _ => 5
  | .pktPush _ => 6
  | .pktVal => 7
  | .fldDec _ _ _ _ _ => 8
  | .regRd _ => 9

theorem opcode_of_spells {w : CmdWord} {i : Instr} (h : spells w i) : opcode i = wordBits w 31 28 := by
  cases i with
  | nop | crcClr | crcRd | pktVal =>
    obtain ⟨hop, -⟩ := h
    exact hop.symm
  | crcUpd | crcCmp | pktClr | pktPush | fldDec | regRd =>
    obtain ⟨⟨hop, -⟩, -⟩ := h
    exact hop.symm

/-- A word of the row of FLD.DEC spells a FLD.DEC unless it is on the list. -/
theorem inRow_fldDec_and_legal_iff {w : CmdWord} :
    inRow w 8 20 ∧ ¬ isIllegalWord w ↔ ∃ off fmt sent conv pdiv, decode w = .ok (.fldDec off fmt sent conv pdiv) := by
  simp only [decode_eq_ok_iff_spells]
  constructor
  · rintro ⟨⟨hop, -⟩, hlegal⟩
    obtain ⟨i, h⟩ := exists_spells_of_not_isIllegalWord hlegal
    have hi : opcode i = 8 := (opcode_of_spells h).trans hop
    cases i with
    | fldDec => exact ⟨_, _, _, _, _, h⟩
    | _ => cases hi
  · rintro ⟨off, fmt, sent, conv, pdiv, h⟩
    exact ⟨h.1, not_isIllegalWord_of_spells h⟩

/-- A word of the row of REG.RD spells a REG.RD unless it is on the list. -/
theorem inRow_regRd_and_legal_iff {w : CmdWord} :
    inRow w 9 4 ∧ ¬ isIllegalWord w ↔ ∃ r, decode w = .ok (.regRd r) := by
  simp only [decode_eq_ok_iff_spells]
  constructor
  · rintro ⟨⟨hop, -⟩, hlegal⟩
    obtain ⟨i, h⟩ := exists_spells_of_not_isIllegalWord hlegal
    have hi : opcode i = 9 := (opcode_of_spells h).trans hop
    cases i with
    | regRd => exact ⟨_, h⟩
    | _ => cases hi
  · rintro ⟨r, h⟩
    exact ⟨h.1, not_isIllegalWord_of_spells h⟩

/-! ### The obligations -/

/-- Settles O3: the decoder refuses exactly the words of the list. -/
theorem illegalWordsAreExactlyThoseListed : Obligations.IllegalWordsAreExactlyThoseListed := by
  unfold Obligations.IllegalWordsAreExactlyThoseListed
  intro w s rest hin
  constructor
  · intro hillegal
    obtain ⟨r, hd⟩ := exists_decode_error_iff.mpr hillegal
    rw [step_of_decode_error hin hd]
    rfl
  · intro hlegal
    obtain ⟨i, hd⟩ := exists_decode_iff.mpr hlegal
    exact ⟨i, hd, step_of_decode_ok hin hd⟩

/-- Settles O4: the match and the mask of a row select its opcode and its clear must-be-zero bits, and a word with both
spells a command of the row; for FLD.DEC and REG.RD the operand fields decide, as the list says. -/
theorem opcodeMapSelectsTheCommand : Obligations.OpcodeMapSelectsTheCommand := by
  unfold Obligations.OpcodeMapSelectsTheCommand
  intro w
  refine ⟨?nop, ?crcClr, ?crcUpd, ?crcRd, ?crcCmp, ?pktClr, ?pktPush, ?pktVal, ?fldDec, ?regRd, ?none⟩
  case nop => exact (and_rowMask_eq_iff 0 0).trans (by simp [decode_eq_ok_iff_spells, spells])
  case crcClr => exact (and_rowMask_eq_iff 1 0).trans (by simp [decode_eq_ok_iff_spells, spells])
  case crcUpd => exact (and_rowMask_eq_iff 2 8).trans (by simp [decode_eq_ok_iff_spells, spells])
  case crcRd => exact (and_rowMask_eq_iff 3 0).trans (by simp [decode_eq_ok_iff_spells, spells])
  case crcCmp => exact (and_rowMask_eq_iff 4 16).trans (by simp [decode_eq_ok_iff_spells, spells])
  case pktClr => exact (and_rowMask_eq_iff 5 2).trans (by simp [decode_eq_ok_iff_spells, spells])
  case pktPush => exact (and_rowMask_eq_iff 6 8).trans (by simp [decode_eq_ok_iff_spells, spells])
  case pktVal => exact (and_rowMask_eq_iff 7 0).trans (by simp [decode_eq_ok_iff_spells, spells])
  case fldDec => exact (and_congr_left' (and_rowMask_eq_iff 8 20)).trans inRow_fldDec_and_legal_iff
  case regRd => exact (and_congr_left' (and_rowMask_eq_iff 9 4)).trans inRow_regRd_and_legal_iff
  case none =>
    intro hw
    have hop : 0xA ≤ wordBits w 31 28 := by
      have := w.isLt
      show 10 ≤ w.toNat / 2 ^ 28 % 2 ^ 4
      omega
    exact exists_decode_error_iff.mpr (.inl hop)

/-- Settles O49: by the command, from the one response each of its outcomes adds. -/
theorem everyCommandAnswersOnceAndSetsLst : Obligations.EveryCommandAnswersOnceAndSetsLst := by
  unfold Obligations.EveryCommandAnswersOnceAndSetsLst
  intro i s t h
  cases i with
  | nop | crcClr | crcUpd | crcRd | crcCmp | pktClr | regRd =>
    obtain rfl := Host.Outcome.next.inj h
    exact ⟨_, rfl, fun hst => absurd rfl hst, (nomatch ·), rfl⟩
  | pktPush b =>
    rcases exec_pktPush_cases h with ⟨-, rfl⟩ | ⟨-, rfl⟩
    all_goals exact ⟨_, rfl, by simp⟩
  | pktVal =>
    rcases exec_pktVal_cases h with ⟨-, -, rfl⟩ | ⟨f, -, -, -, rfl⟩ | ⟨-, rfl⟩
    all_goals exact ⟨_, rfl, by simp⟩
  | fldDec off fmt sent conv pdiv =>
    rcases exec_fldDec_cases h with ⟨-, rfl⟩ | ⟨-, -, rfl⟩ | ⟨bits, -, -, -, -, rfl⟩ | ⟨bits, -, -, -, -, rfl⟩
    all_goals exact ⟨_, rfl, by simp⟩

end Sys2Proof.Machine

/-! PROOFS. The CRC engine of 40_crc_engine.md: the step as the table rule on numbers (R80), the words of
CRC.UPD and CRC.CMP, the comparison as equality of numbers (R85), and what the four commands answer in every state. -/

namespace Sys2Proof.Machine

/-! ### The table rule on numbers -/

/-- The table index of a step is a byte (40_crc_engine.md R80). -/
theorem crcIndex_lt (acc : Crc) (b : Byte) : (acc.toNat >>> 8) ^^^ b.toNat < 256 := by
  have hhigh : acc.toNat >>> 8 < 2 ^ 8 := by
    rw [Nat.shiftRight_eq_div_pow]
    omega
  exact Nat.xor_lt_two_pow hhigh b.isLt

/-- The index the machine computes on bytes is the rule's number. -/
theorem crcIndex_eq_ofNat (acc : Crc) (b : Byte) :
    acc.extractLsb' 8 8 ^^^ b = BitVec.ofNat 8 ((acc.toNat >>> 8) ^^^ b.toNat) := by
  apply BitVec.eq_of_toNat_eq
  have hhigh : (acc.extractLsb' 8 8).toNat = acc.toNat >>> 8 := by
    rw [BitVec.extractLsb'_toNat, Nat.shiftRight_eq_div_pow]
    omega
  rw [BitVec.toNat_xor, hhigh, BitVec.toNat_ofNat, Nat.mod_eq_of_lt (crcIndex_lt acc b)]

/-- The 16-bit shift and exclusive-or lose what the rule masks away (40_crc_engine.md R87). -/
theorem toNat_xor_shiftLeft_eq_and_mask (t acc : Crc) :
    (t ^^^ (acc <<< 8)).toNat = (t.toNat ^^^ (acc.toNat <<< 8)) &&& 0xFFFF := by
  rw [BitVec.toNat_xor, BitVec.toNat_shiftLeft]
  calc t.toNat ^^^ (acc.toNat <<< 8 % 2 ^ 16)
      = t.toNat % 2 ^ 16 ^^^ acc.toNat <<< 8 % 2 ^ 16 := by rw [Nat.mod_eq_of_lt t.isLt]
    _ = (t.toNat ^^^ acc.toNat <<< 8) % 2 ^ 16 := Nat.xor_mod_two_pow.symm
    _ = (t.toNat ^^^ acc.toNat <<< 8) &&& (2 ^ 16 - 1) := (Nat.and_two_pow_sub_one_eq_mod _ _).symm

/-! ### The words of the commands with operands -/

theorem decode_of_toNat_crcUpd {w : CmdWord} {b : Byte} (h : w.toNat = 0x20000000 + b.toNat) :
    decode w = .ok (.crcUpd b) := by
  refine decode_of_spells ⟨⟨?op, ?mbz⟩, field_eq_iff.mpr ?byte⟩
  all_goals simp only [wordBits, h]; omega

theorem decode_of_toNat_crcCmp {w : CmdWord} {hi lo : Byte} (h : w.toNat = 0x40000000 + hi.toNat * 2 ^ 8 + lo.toNat) :
    decode w = .ok (.crcCmp hi lo) := by
  refine decode_of_spells ⟨⟨?op, ?mbz⟩, field_eq_iff.mpr ?hi, field_eq_iff.mpr ?lo⟩
  all_goals simp only [wordBits, h]; omega

/-- The encoder's word of CRC.UPD is the opcode with the byte below it. -/
theorem encode_crcUpd_eq_or (b : Byte) : encode (.crcUpd b) = 0x20000000 ||| b.setWidth 32 := by
  apply BitVec.eq_of_toNat_eq
  rw [encode_crcUpd_toNat, BitVec.toNat_or, BitVec.toNat_setWidth_of_le (by decide)]
  exact Nat.two_pow_add_eq_or_of_lt (i := 8) b.isLt 0x200000

/-- The encoder's word of CRC.CMP is the opcode with HI and LO below it. -/
theorem encode_crcCmp_eq_or (hi lo : Byte) :
    encode (.crcCmp hi lo) = 0x40000000 ||| (hi.setWidth 32 <<< 8) ||| lo.setWidth 32 := by
  have hhigh : (hi.setWidth 32 <<< 8).toNat = hi.toNat * 2 ^ 8 := by
    rw [BitVec.toNat_shiftLeft, BitVec.toNat_setWidth_of_le (by decide), Nat.shiftLeft_eq]
    omega
  have hop : 0x40000000 ||| hi.toNat * 2 ^ 8 = 2 ^ 8 * (0x400000 + hi.toNat) := by
    rw [← Nat.two_pow_add_eq_or_of_lt (i := 16) (by omega) 0x4000]
    omega
  apply BitVec.eq_of_toNat_eq
  rw [encode_crcCmp_toNat, BitVec.toNat_or, BitVec.toNat_or, hhigh, BitVec.toNat_setWidth_of_le (by decide)]
  calc 0x40000000 + hi.toNat * 2 ^ 8 + lo.toNat
      = 2 ^ 8 * (0x400000 + hi.toNat) + lo.toNat := by omega
    _ = 2 ^ 8 * (0x400000 + hi.toNat) ||| lo.toNat := Nat.two_pow_add_eq_or_of_lt lo.isLt _
    _ = 0x40000000 ||| hi.toNat * 2 ^ 8 ||| lo.toNat := by rw [hop]

/-! ### The comparison of CRC.CMP -/

theorem imm16_toNat (hi lo : Byte) : (imm16 hi lo).toNat = hi.toNat * 256 + lo.toNat := toNat_append_eq hi lo

theorem crcMatches_eq_decide (acc v : Crc) : crcMatches acc v = decide (acc.toNat = v.toNat) := by
  simp only [crcMatches, BitVec.toNat_inj]
  rfl

theorem flagData_decide (p : Prop) [Decidable p] : flagData (decide p) = if p then 1 else 0 := by
  by_cases hp : p <;> simp [hp, flagData]

/-! ### The obligations -/

/-- Settles O14: the index is the rule's number, and the 16-bit arithmetic is the rule's under its mask. -/
theorem crcStepIsTheTableRule : Obligations.CrcStepIsTheTableRule := by
  unfold Obligations.CrcStepIsTheTableRule
  intro acc b
  refine ⟨crcIndex_lt acc b, ?_⟩
  rw [← crcIndex_eq_ofNat]
  exact toNat_xor_shiftLeft_eq_and_mask _ acc

/-- Settles O19: the one word of the row, and the equation of the command. -/
theorem crcClrClearsTheAccumulator : Obligations.CrcClrClearsTheAccumulator := by
  unfold Obligations.CrcClrClearsTheAccumulator
  exact ⟨decode_of_spells ⟨by decide, by decide⟩, exec_crcClr⟩

/-- Settles O20: the word is the encoder's, and the response widens the new ACC. -/
theorem crcUpdFeedsOneByte : Obligations.CrcUpdFeedsOneByte := by
  unfold Obligations.CrcUpdFeedsOneByte
  intro b s
  rw [← encode_crcUpd_eq_or, BitVec.ofNat_toNat]
  exact ⟨decode_of_toNat_crcUpd (encode_crcUpd_toNat b), exec_crcUpd b s⟩

/-- Settles O21: the one word of the row, and the equation of the command. -/
theorem crcRdAnswersTheAccumulator : Obligations.CrcRdAnswersTheAccumulator := by
  unfold Obligations.CrcRdAnswersTheAccumulator
  simp only [BitVec.ofNat_toNat]
  exact ⟨decode_of_spells ⟨by decide, by decide⟩, exec_crcRd⟩

/-- Settles O22: the word is the encoder's, MATCH is equality with IMM16 as a number, and the response carries MATCH. -/
theorem crcCmpComparesTheAccumulator : Obligations.CrcCmpComparesTheAccumulator := by
  unfold Obligations.CrcCmpComparesTheAccumulator
  intro hi lo s
  rw [← encode_crcCmp_eq_or, ← flagData_decide, ← imm16_toNat, ← crcMatches_eq_decide]
  exact ⟨decode_of_toNat_crcCmp (encode_crcCmp_toNat hi lo), exec_crcCmp hi lo s⟩

end Sys2Proof.Machine

/-! PROOFS. The packet commands of 41_packet_validate.md: the words of PKT.CLR and PKT.PUSH (R101, R102), the length a
push answers, PKT.VAL as the spec's verdict (R103 to R110) and its independence of the CRC engine's registers (R111). -/

namespace Sys2Proof.Machine

/-! ### The words of the packet commands -/

/-- The encoder's word of PKT.PUSH is the opcode with the byte below it. -/
theorem encode_pktPush_eq_or (b : Byte) : encode (.pktPush b) = 0x60000000 ||| b.setWidth 32 := by
  apply BitVec.eq_of_toNat_eq
  rw [encode_pktPush_toNat, BitVec.toNat_or, BitVec.toNat_setWidth_of_le (by decide)]
  exact Nat.two_pow_add_eq_or_of_lt (i := 8) b.isLt 0x600000

theorem decode_of_toNat_pktPush {w : CmdWord} {b : Byte} (h : w.toNat = 0x60000000 + b.toNat) :
    decode w = .ok (.pktPush b) := by
  refine decode_of_spells ⟨⟨?op, ?mbz⟩, field_eq_iff.mpr ?byte⟩
  all_goals simp only [wordBits, h]; omega

/-! ### The length a push answers -/

/-- The new LEN fits its nine bits, so the response carries the count itself (41_packet_validate.md R102). -/
theorem nextLen_setWidth (l : Offset) : (nextLen l).setWidth 64 = BitVec.ofNat 64 (min (l.toNat + 1) 511) := by
  rw [← nextLen_toNat, BitVec.ofNat_toNat]

/-! ### The outcomes of PKT.VAL -/

/-- PKT.VAL while LOADING, for a verdict its checks reach: R109 for OK, R110 for a code. -/
theorem exec_pktVal_of_verdict {s : State} {f : Status} (h : s.vs = .loading) (hv : verdict s = .ok f) :
    exec .pktVal s = .next (if f = .ok then succeed { s with vs := .valid } 0 else failPacket s f) := by
  by_cases hf : f = .ok
  · rw [if_pos hf, exec_pktVal_ok h (hf ▸ hv)]
  · rw [if_neg hf, exec_pktVal_fail h hv hf]

/-- The checks read PKT, LEN, KIND and TYPE_OFF alone (41_packet_validate.md R111). -/
theorem verdict_with_crcRegisters (s : State) (a : Crc) (m : Bool) :
    verdict { s with acc := a, matchFlag := m } = verdict s :=
  verdict_congr (s := { s with acc := a, matchFlag := m }) (t := s) rfl rfl rfl rfl

/-! ### The obligations -/

/-- Settles O27: the checks give the spec's verdict, and the command answers by it. -/
theorem pktValAnswersTheFirstFailingCheck : Obligations.PktValAnswersTheFirstFailingCheck := by
  unfold Obligations.PktValAnswersTheFirstFailingCheck
  refine ⟨decode_of_spells ⟨by decide, by decide⟩, fun s => ⟨fun hv hb hc => ?loading, exec_pktVal_refused⟩⟩
  case loading => exact exec_pktVal_of_verdict hv (verdict_eq_specVerdict hb hc)

/-- Settles O28: by the outcome of PKT.VAL; other CRC registers leave VS and the verdict, and with them the outcome. -/
theorem pktValIgnoresTheCrcRegisters : Obligations.PktValIgnoresTheCrcRegisters := by
  unfold Obligations.PktValIgnoresTheCrcRegisters
  intro s t a m h
  have hverdict := verdict_with_crcRegisters s a m
  rcases exec_pktVal_cases h with ⟨hv, hok, rfl⟩ | ⟨f, hv, hfail, hf, rfl⟩ | ⟨hv, rfl⟩
  · exact ⟨rfl, rfl, exec_pktVal_ok hv (hverdict.trans hok)⟩
  · exact ⟨rfl, rfl, exec_pktVal_fail hv (hverdict.trans hfail) hf⟩
  · exact ⟨rfl, rfl, exec_pktVal_refused hv⟩

/-- Settles O25: the word is the encoder's, and by VS the push is an append that answers the new LEN or is refused. -/
theorem pktPushAppendsOneByte : Obligations.PktPushAppendsOneByte := by
  unfold Obligations.PktPushAppendsOneByte
  intro b s
  rw [← encode_pktPush_eq_or, ← nextLen_setWidth]
  exact ⟨decode_of_toNat_pktPush (encode_pktPush_toNat b), (exec_pktPush_loading · b), (exec_pktPush_refused · b)⟩

/-- Settles O24: a word for each kind, and the equation of the command, whose state lists no byte of PKT. -/
theorem pktClrStartsAPacket : Obligations.PktClrStartsAPacket := by
  unfold Obligations.PktClrStartsAPacket
  intro k s
  refine ⟨?word, _, exec_pktClr k s, readByte_nil, rfl⟩
  cases k <;> exact decode_of_spells ⟨⟨by decide, by decide⟩, by decide⟩

end Sys2Proof.Machine

/-! PROOFS. The field decoder of 42_field_decode.md: the raw bits as the spec's number (R123), the sentinel and the
integer N read off it (R125, R126), the four outcomes of FLD.DEC (R121, R122, R125, R139), the rounder as the one nearest
integer under its tie rule (R129), and the conversions on it (R130 to R134, R137). -/

namespace Sys2Proof.Machine

/-! ### The raw bits of a field as a number -/

/-- The raw number of a field fits RAW (42_field_decode.md R123). -/
theorem rawNumber_lt (fmt : Fmt) (lo hi : Byte) : rawNumber fmt lo hi < 2 ^ 16 := by
  have hlo := lo.isLt
  have hhi := hi.isLt
  cases fmt <;> simp only [rawNumber] <;> omega

theorem setWidth_eq_ofNat_rawNumber (lo hi : Byte) : lo.setWidth 16 = BitVec.ofNat 16 (rawNumber .u8 lo hi) :=
  (BitVec.ofNat_toNat 16 lo).symm

/-- Two bytes little-endian: the one at the higher offset weighs 256. -/
theorem append_eq_ofNat_rawNumber {fmt : Fmt} (h : fmt ≠ .u8) (lo hi : Byte) :
    hi ++ lo = BitVec.ofNat 16 (rawNumber fmt lo hi) := by
  have hnum : rawNumber fmt lo hi = (hi ++ lo).toNat := by
    rw [toNat_append_eq]
    cases fmt with
    | u8 => exact absurd rfl h
    | s16le | u16le => simp only [rawNumber]; omega
  rw [hnum, BitVec.ofNat_toNat, BitVec.setWidth_eq]

theorem fieldBits_of_fieldBytesAre {s : State} {off : Offset} {fmt : Fmt} {lo hi : Byte}
    (h : fieldBytesAre s off fmt lo hi) : fieldBits s off fmt = .ok (BitVec.ofNat 16 (rawNumber fmt lo hi)) := by
  obtain ⟨hlo, hrest⟩ := h
  refine fieldBits_ok_iff.mpr ?_
  by_cases hf : fmt = .u8
  · subst hf
    exact .inl ⟨rfl, lo, hlo, (setWidth_eq_ofNat_rawNumber lo hi).symm⟩
  · exact .inr ⟨hf, lo, hi, hlo, hrest.resolve_left hf, (append_eq_ofNat_rawNumber hf lo hi).symm⟩

/-! ### The sentinel and the integer N -/

/-- Bits compare as their numbers do, so the comparator finds the pattern the selector names. -/
theorem isAbsent_ofNat_iff {sent : Sent} {n : Nat} (hn : n < 2 ^ 16) :
    isAbsent sent (BitVec.ofNat 16 n) = true ↔ isSentinelValue sent n := by
  have heq (p : BitVec 16) : BitVec.ofNat 16 n = p ↔ n = p.toNat := by
    rw [← BitVec.toNat_inj, BitVec.toNat_ofNat, Nat.mod_eq_of_lt hn]
  cases sent <;> simp [isAbsent, sentPattern, isSentinelValue, heq]

/-- N is two's complement for S16LE and the number itself for the unsigned formats (42_field_decode.md R126). -/
theorem rawInteger_ofNat {fmt : Fmt} {n : Nat} (hn : n < 2 ^ 16) :
    rawInteger fmt (BitVec.ofNat 16 n) = fieldInteger fmt n := by
  have hnat : (BitVec.ofNat 16 n).toNat = n := BitVec.toNat_ofNat .. |>.trans (Nat.mod_eq_of_lt hn)
  cases fmt with
  | u8 | u16le => simp [rawInteger, fieldInteger, hnat]
  | s16le =>
    simp only [rawInteger, fieldInteger, BitVec.toInt, hnat, true_and]
    split <;> split <;> omega

/-! ### The rounder -/

/-- What 42_field_decode.md R129 asks of `rnd(num, den)`: at most half away, and on a tie the neighbour the rule picks. -/
def IsRounding (tie : RoundTie) (num den k : Int) : Prop :=
  2 * |k * den - num| ≤ den ∧
  (2 * |k * den - num| = den → (tie = .halfEven → k % 2 = 0) ∧ (tie = .halfAway → |num| < |k * den|))

section
variable {num den : Int} (hden : 0 < den)
include hden

/-- The floor of the fraction lies the remainder below it. -/
theorem abs_floor_mul_sub : |num / den * den - num| = num % den := by
  rw [show num / den * den - num = -(num % den) by have := Int.ediv_mul_add_emod num den; omega, abs_neg]
  exact abs_of_nonneg (Int.emod_nonneg num hden.ne')

/-- The next integer lies what the remainder lacks above it. -/
theorem abs_floor_succ_mul_sub : |(num / den + 1) * den - num| = den - num % den := by
  rw [show (num / den + 1) * den - num = den - num % den by
    have := Int.ediv_mul_add_emod num den; rw [Int.add_mul]; omega]
  exact abs_of_pos (by have := Int.emod_lt_of_pos num hden; omega)

/-- On a tie the next integer is the neighbour away from zero of a fraction that is not negative. -/
theorem abs_lt_abs_floor_succ_mul (htie : 2 * (num % den) = den) (hnum : 0 ≤ num) :
    |num| < |(num / den + 1) * den| := by
  have hval : (num / den + 1) * den = num + (den - num % den) := by
    have := Int.ediv_mul_add_emod num den
    rw [Int.add_mul]
    omega
  rw [hval, abs_of_nonneg hnum, abs_of_pos] <;> omega

/-- On a tie the floor is the neighbour away from zero of a negative fraction. -/
theorem abs_lt_abs_floor_mul (htie : 2 * (num % den) = den) (hnum : num < 0) : |num| < |num / den * den| := by
  have hval : num / den * den = num - num % den := by
    have := Int.ediv_mul_add_emod num den
    omega
  rw [hval, abs_of_neg hnum, abs_of_neg] <;> omega

/-- The rounder meets its specification, by the side of the remainder and, on a tie, by the tie rule. -/
theorem rnd_isRounding (tie : RoundTie) : IsRounding tie num den (rnd tie num den) := by
  have hfloor := abs_floor_mul_sub (num := num) hden
  have hsucc := abs_floor_succ_mul_sub (num := num) hden
  unfold IsRounding
  rcases rnd_cases tie num den with ⟨hr, hk⟩ | ⟨hr, hk⟩ | ⟨hr, htie⟩
  · rw [hk, hfloor]
    omega
  · rw [hk, hsucc]
    omega
  · rcases htie with ⟨rfl, heven, hk⟩ | ⟨rfl, hodd, hk⟩ | ⟨rfl, hnum, hk⟩ | ⟨rfl, hnum, hk⟩
    · rw [hk, hfloor]
      exact ⟨by omega, fun _ => ⟨fun _ => heven, nofun⟩⟩
    · rw [hk, hsucc]
      exact ⟨by omega, fun _ => ⟨fun _ => by omega, nofun⟩⟩
    · rw [hk, hsucc]
      exact ⟨by omega, fun _ => ⟨nofun, fun _ => abs_lt_abs_floor_succ_mul hden hr hnum⟩⟩
    · rw [hk, hfloor]
      exact ⟨by omega, fun _ => ⟨nofun, fun _ => abs_lt_abs_floor_mul hden hr hnum⟩⟩

/-- The rounder is exactly half away only from a fraction whose remainder is half the divisor. -/
theorem two_mul_abs_rnd_sub_lt (tie : RoundTie) (h : 2 * (num % den) ≠ den) :
    2 * |rnd tie num den * den - num| < den := by
  have hfloor := abs_floor_mul_sub (num := num) hden
  have hsucc := abs_floor_succ_mul_sub (num := num) hden
  rcases rnd_cases tie num den with ⟨hr, hk⟩ | ⟨hr, hk⟩ | ⟨hr, -⟩
  · rw [hk, hfloor]
    exact hr
  · rw [hk, hsucc]
    omega
  · exact absurd hr h

omit hden in
/-- Of two neighbours, one on each side of the fraction, one is not away from zero. -/
theorem abs_mul_le_or_abs_succ_mul_le {m : Int} (hlow : m * den ≤ num) (hhigh : num ≤ (m + 1) * den) (hden : 0 < den) :
    |m * den| ≤ |num| ∨ |(m + 1) * den| ≤ |num| := by
  rcases lt_or_ge m 0 with hneg | hnonneg
  · have hle : (m + 1) * den ≤ 0 := Int.mul_nonpos_of_nonpos_of_nonneg hneg hden.le
    exact .inr (abs_le_abs_of_nonpos hle hhigh)
  · exact .inl (abs_le_abs_of_nonneg (Int.mul_nonneg hnonneg hden.le) hlow)

/-- Were one rounding above the other, they would be neighbours, each half away, and the tie rule picks one of them. -/
theorem IsRounding.le {tie : RoundTie} {k m : Int} (hk : IsRounding tie num den k) (hm : IsRounding tie num den m) :
    k ≤ m := by
  obtain ⟨hkhalf, hktie⟩ := hk
  obtain ⟨hmhalf, hmtie⟩ := hm
  by_contra hlt
  have habove := le_abs_self (k * den - num)
  have hbelow := neg_abs_le (m * den - num)
  have hstep : den ≤ (k - m) * den := le_mul_of_one_le_left hden.le (by omega)
  have hdist := Int.sub_mul k m den
  obtain rfl : k = m + 1 := by
    have : (k - m) * den = 1 * den := by omega
    have := Int.eq_of_mul_eq_mul_right hden.ne' this
    omega
  obtain ⟨hkeven, hkaway⟩ := hktie (by omega)
  obtain ⟨hmeven, hmaway⟩ := hmtie (by omega)
  cases tie with
  | halfEven =>
    have := hkeven rfl
    have := hmeven rfl
    omega
  | halfAway =>
    have := hkaway rfl
    have := hmaway rfl
    have hsucc : (m + 1) * den = m * den + den := by rw [Int.add_mul, Int.one_mul]
    rcases abs_mul_le_or_abs_succ_mul_le (num := num) (m := m) (by omega) (by omega) hden with h | h <;> omega

/-- A fraction has one rounding under each tie rule, and it is the rounder's. -/
theorem rnd_eq_of_isRounding {tie : RoundTie} {k : Int} (hk : IsRounding tie num den k) : rnd tie num den = k :=
  le_antisymm ((rnd_isRounding hden tie).le hden hk) (hk.le hden (rnd_isRounding hden tie))

omit hden in
theorem IsRounding.neg {tie : RoundTie} {k : Int} (hk : IsRounding tie num den k) :
    IsRounding tie (-num) den (-k) := by
  obtain ⟨hhalf, htie⟩ := hk
  have hdist : |-k * den - -num| = |k * den - num| := by
    rw [Int.neg_mul, ← abs_neg, show -(-(k * den) - -num) = k * den - num by omega]
  unfold IsRounding
  rw [hdist, Int.neg_mul, abs_neg, abs_neg]
  exact ⟨hhalf, fun h => ⟨fun he => by have := (htie h).1 he; omega, (htie h).2⟩⟩

theorem rnd_neg (tie : RoundTie) : rnd tie (-num) den = -rnd tie num den :=
  rnd_eq_of_isRounding hden (rnd_isRounding hden tie).neg

/-- An exact division is not rounded. -/
theorem rnd_mul_den (tie : RoundTie) (k : Int) : rnd tie (k * den) den = k := by
  refine rnd_eq_of_isRounding hden ?_
  rw [IsRounding, sub_self, abs_zero]
  omega

end

/-! ### The conversions -/

/-- Every pre-divisor divides 1000 (30_encoding.md R65). -/
theorem divisor_dvd_thousand (p : Pdiv) : 1000 / divisor p * divisor p = 1000 := by cases p <;> decide

theorem convRaw_eq_mul (tie : RoundTie) (n : Int) (p : Pdiv) : convRaw tie n (divisor p) = n * (1000 / divisor p) := by
  have hexact : 1000 * n = n * (1000 / divisor p) * divisor p := by
    rw [Int.mul_assoc, divisor_dvd_thousand, Int.mul_comm]
  rw [convRaw, hexact, rnd_mul_den (divisor_pos p)]

/-- 5000 and 9 * P share a power of two that does not divide half of 9 * P, so no remainder is that half. -/
theorem f2c_never_ties (n : Int) (p : Pdiv) :
    2 * ((n - 32 * divisor p) * 5000 % (9 * divisor p)) ≠ 9 * divisor p := by
  cases p <;> simp only [divisor] <;> omega

/-- 44704 and 100 * P share a power of two that does not divide half of 100 * P, so no remainder is that half. -/
theorem mph2ms_never_ties (n : Int) (p : Pdiv) : 2 * (n * 44704 % (100 * divisor p)) ≠ 100 * divisor p := by
  cases p <;> simp only [divisor] <;> omega

/-- The hour stands above the seven bits the minute needs (42_field_decode.md R137). -/
theorem convHhmm_natCast (n : Nat) : convHhmm n = ((n / 100) <<< 8 ||| n % 100 : Nat) := by
  have hhour : ((n : Int) / 100).toNat = n / 100 := by omega
  have hminute : ((n : Int) % 100).toNat = n % 100 := by omega
  rw [convHhmm, hhour, hminute]

theorem hour_shiftLeft_or_minute (n : Nat) : (n / 100) <<< 8 ||| n % 100 = 256 * (n / 100) + n % 100 := by
  rw [← Nat.shiftLeft_add_eq_or_of_lt (by omega), Nat.shiftLeft_eq, Nat.mul_comm]

/-! ### The obligations -/

/-- Settles O33: the bits read are the spec's number, and the command answers by the comparator. -/
theorem fldDecIsAbsentExactlyOnTheSentinel : Obligations.FldDecIsAbsentExactlyOnTheSentinel := by
  unfold Obligations.FldDecIsAbsentExactlyOnTheSentinel
  intro off fmt sent conv pdiv s lo hi hv hin hbytes
  have hw := inWindow_eq_true_iff.mpr hin
  have hbits := fieldBits_of_fieldBytesAre hbytes
  rw [← isAbsent_ofNat_iff (rawNumber_lt fmt lo hi)]
  cases ha : isAbsent sent (BitVec.ofNat 16 (rawNumber fmt lo hi)) with
  | true => exact ⟨_, exec_fldDec_absent hv hw hbits ha conv pdiv, hv, ⟨fun _ => rfl, fun _ => rfl⟩, fun _ => rfl⟩
  | false => exact ⟨_, exec_fldDec_value hv hw hbits ha conv pdiv, hv, ⟨nofun, nofun⟩, nofun⟩

/-- Settles O34: bits that are no sentinel are converted, and N read off them is the spec's integer. -/
theorem fldDecConvertsTheField : Obligations.FldDecConvertsTheField := by
  unfold Obligations.FldDecConvertsTheField
  intro off fmt sent conv pdiv s lo hi hv hin hbytes hvalue
  have hlt := rawNumber_lt fmt lo hi
  rw [← isAbsent_ofNat_iff hlt, Bool.not_eq_true] at hvalue
  rw [← rawInteger_ofNat hlt]
  exact exec_fldDec_value hv (inWindow_eq_true_iff.mpr hin) (fieldBits_of_fieldBytesAre hbytes) hvalue conv pdiv

/-- Settles O32: the window check comes before any read of PKT. -/
theorem fldDecOutsideTheWindowFailsThePacket : Obligations.FldDecOutsideTheWindowFailsThePacket := by
  unfold Obligations.FldDecOutsideTheWindowFailsThePacket
  intro off fmt sent conv pdiv s hv hout
  rw [← inWindow_eq_true_iff, Bool.not_eq_true] at hout
  exact exec_fldDec_outside hv hout sent conv pdiv

/-- Settles O37: the rounder meets R129's specification, and the one rounding of the negated fraction is the negated
rounding. -/
theorem roundingIsToTheNearest : Obligations.RoundingIsToTheNearest := by
  unfold Obligations.RoundingIsToTheNearest
  intro tie num den hden
  obtain ⟨hhalf, htie⟩ := rnd_isRounding (num := num) hden tie
  exact ⟨hhalf, htie, rnd_neg hden tie⟩

/-- Settles O38: the fraction of RAW is an integer. -/
theorem rawConversionIsExact : Obligations.RawConversionIsExact := by
  unfold Obligations.RawConversionIsExact
  exact convRaw_eq_mul

/-- Settles O39: each conversion is the rounder on its fraction, and those of F2C and MPH2MS meet no tie. -/
theorem scaledConversionsAreNearestThousandths : Obligations.ScaledConversionsAreNearestThousandths := by
  unfold Obligations.ScaledConversionsAreNearestThousandths
  intro tie n pdiv
  have hp := divisor_pos pdiv
  refine ⟨rfl, rfl, rfl, rfl, ?f2c, ?mph2ms, ?inhg2hpa, ?clicks2mm⟩
  case f2c => exact two_mul_abs_rnd_sub_lt (by omega) tie (f2c_never_ties n pdiv)
  case mph2ms => exact two_mul_abs_rnd_sub_lt (by omega) tie (mph2ms_never_ties n pdiv)
  case inhg2hpa => exact (rnd_isRounding (by omega) tie).1
  case clicks2mm => exact (rnd_isRounding hp tie).1

/-- Settles O42: the minute is below 256, so packing it under the hour is a sum. -/
theorem timeCodePacksHourAndMinute : Obligations.TimeCodePacksHourAndMinute := by
  unfold Obligations.TimeCodePacksHourAndMinute
  intro tie n p
  have hpacked : convert tie .hhmm n p = ((n / 100) <<< 8 ||| n % 100 : Nat) := convHhmm_natCast n
  refine ⟨hpacked, ?sum, by omega, by omega⟩
  case sum =>
    rw [hpacked, hour_shiftLeft_or_minute]
    omega

/-- Settles O31: admission comes first. -/
theorem fldDecIsRefusedUnlessValid : Obligations.FldDecIsRefusedUnlessValid := by
  unfold Obligations.FldDecIsRefusedUnlessValid
  exact fun off fmt sent conv pdiv _ hv => exec_fldDec_refused hv off fmt sent conv pdiv

end Sys2Proof.Machine

/-! PROOFS. The two commands of 43_system.md that compute nothing: the words of opcode 0, of which NOP is the only legal
one (R160), the words of REG.RD and its reserved register numbers (R161), and the value a register reads as (10_state.md
R24). -/

namespace Sys2Proof.Machine

/-! ### The words of opcode 0 -/

/-- A word below 10000000 has opcode 0, and all of it is must-be-zero bits (30_encoding.md R61). -/
theorem isIllegalWord_of_opcode_zero {w : CmdWord} (hlt : w.toNat < 0x10000000) (hne : w ≠ 0) : isIllegalWord w := by
  have hpos : w.toNat ≠ 0 := fun h => hne (BitVec.eq_of_toNat_eq h)
  have hop : wordBits w 31 28 = 0 := by
    simp only [wordBits]
    omega
  have hmbz : wordBits w 27 0 ≠ 0 := by
    simp only [wordBits]
    omega
  exact .inr (.inl ⟨by simp [hop], hmbz⟩)

/-! ### The words of REG.RD -/

/-- The register number stands in the low bits of its word, legal or not. -/
theorem toNat_regRdWord (n : BitVec 4) : (0x90000000 ||| n.setWidth 32 : CmdWord).toNat = 0x90000000 + n.toNat := by
  rw [BitVec.toNat_or, BitVec.toNat_setWidth_of_le (by decide)]
  exact (Nat.two_pow_add_eq_or_of_lt (i := 4) n.isLt 0x9000000).symm

/-- The register numbers 5 to 15 are reserved (30_encoding.md R66 item 8). -/
theorem isIllegalWord_of_reserved_register {w : CmdWord} (hop : wordBits w 31 28 = 9) (hreg : 5 ≤ wordBits w 3 0) :
    isIllegalWord w := by
  simp [isIllegalWord, hop, hreg]

theorem isIllegalWord_regRdWord {n : BitVec 4} (hn : 5 ≤ n.toNat) : isIllegalWord (0x90000000 ||| n.setWidth 32) := by
  apply isIllegalWord_of_reserved_register
  all_goals simp only [wordBits, toNat_regRdWord]; omega

/-! ### The obligations -/

/-- Settles O44: the one word of the row spells NOP, another word of opcode 0 has a must-be-zero bit set, and the command
only responds. -/
theorem nopOnlyAnswers : Obligations.NopOnlyAnswers := by
  unfold Obligations.NopOnlyAnswers
  exact ⟨decode_of_spells ⟨by decide, by decide⟩,
    fun _ hlt hne => exists_decode_error_iff.mpr (isIllegalWord_of_opcode_zero hlt hne), exec_nop⟩

/-- Settles O45: a reserved number puts the word on the list of illegal words, each register has its word, and the command
only responds with the register's value. -/
theorem regRdAnswersTheRegister : Obligations.RegRdAnswersTheRegister := by
  unfold Obligations.RegRdAnswersTheRegister
  refine ⟨fun n hn => exists_decode_error_iff.mpr (isIllegalWord_regRdWord hn), fun r s => ⟨?word, ?answer⟩⟩
  case word => cases r <;> exact decode_of_spells ⟨⟨by decide, by decide⟩, by decide⟩
  case answer =>
    simp only [BitVec.ofNat_toNat]
    cases r <;> exact exec_regRd _ s

end Sys2Proof.Machine

/-! PROOFS. The status codes of 60_exceptions.md: on which kinds a check of PKT.VAL can fail, the command and the VS of
each code (R171), and what the commands answer in FAILED (R183, R184). -/

namespace Sys2Proof.Machine

/-! ### The kinds on which a check can fail -/

/-- The acknowledgment check is TIME's alone (41_packet_validate.md R105). -/
theorem kind_of_ackOk_false {s : State} (h : ackOk s = .ok false) : s.kind = .time := by
  cases hk : s.kind with
  | time => rfl
  | loop | loop2 | hilow => simp [ackOk, hk] at h

/-- The tag and the type check are LOOP's and LOOP2's (41_packet_validate.md R106, R107). -/
theorem kind_of_tagOk_or_typeOk_false {s : State} (h : tagOk s = .ok false ∨ typeOk s = .ok false) :
    s.kind = .loop ∨ s.kind = .loop2 := by
  cases hk : s.kind with
  | loop => exact .inl rfl
  | loop2 => exact .inr rfl
  | hilow | time => simp [tagOk, typeOk, hk] at h

/-! ### The obligations -/

/-- Settles O50: by the command and its outcome; a code of PKT.VAL is that of the check that failed, and the check's own
code tells the kind. -/
theorem statusCodesComeFromTheirCommands : Obligations.StatusCodesComeFromTheirCommands := by
  unfold Obligations.StatusCodesComeFromTheirCommands
  intro i s t r h hr
  cases i with
  | nop | crcClr | crcUpd | crcRd | crcCmp | pktClr | regRd =>
    obtain rfl := Host.Outcome.next.inj h
    cases List.append_cancel_left hr
    trivial
  | pktPush b =>
    rcases exec_pktPush_cases h with ⟨-, rfl⟩ | ⟨-, rfl⟩
    all_goals cases List.append_cancel_left hr
    · trivial
    · exact ⟨.inl ⟨b, rfl⟩, rfl, rfl⟩
  | pktVal =>
    rcases exec_pktVal_cases h with ⟨-, -, rfl⟩ | ⟨f, -, hfail, hf, rfl⟩ | ⟨-, rfl⟩
    all_goals cases List.append_cancel_left hr
    · trivial
    · rcases verdict_cases hfail with ⟨-, rfl⟩ | ⟨-, hack, rfl⟩ | ⟨-, -, htag, rfl⟩ | ⟨-, -, -, htype, rfl⟩ |
        ⟨-, -, -, -, -, rfl⟩ | ⟨-, -, -, -, -, rfl⟩
      · exact ⟨rfl, rfl, rfl⟩
      · exact ⟨rfl, kind_of_ackOk_false hack, rfl, rfl⟩
      · exact ⟨rfl, kind_of_tagOk_or_typeOk_false (.inl htag), rfl, rfl⟩
      · exact ⟨rfl, kind_of_tagOk_or_typeOk_false (.inr htype), rfl, rfl⟩
      · exact ⟨rfl, rfl, rfl⟩
      · exact absurd rfl hf
    · exact ⟨.inr (.inl rfl), rfl, rfl⟩
  | fldDec off fmt sent conv pdiv =>
    rcases exec_fldDec_cases h with ⟨-, rfl⟩ | ⟨-, -, rfl⟩ | ⟨_, -, -, -, -, rfl⟩ | ⟨_, -, -, -, -, rfl⟩
    all_goals cases List.append_cancel_left hr
    · exact ⟨.inr (.inr ⟨off, fmt, sent, conv, pdiv, rfl⟩), rfl, rfl⟩
    · exact ⟨⟨off, fmt, sent, conv, pdiv, rfl⟩, rfl, rfl⟩
    · trivial
    · trivial

/-- Settles O48: PKT.PUSH and PKT.VAL need LOADING and FLD.DEC needs VALID, so FAILED refuses the three; the other
commands but PKT.CLR write neither VS nor FAILCODE. -/
theorem failedPacketStaysFailedUntilPktClr : Obligations.FailedPacketStaysFailedUntilPktClr := by
  unfold Obligations.FailedPacketStaysFailedUntilPktClr
  intro i s hv hclr
  have hloading : s.vs ≠ .loading := by simp [hv]
  have hvalid : s.vs ≠ .valid := by simp [hv]
  cases i with
  | pktClr k => exact absurd rfl (hclr k)
  | nop | crcClr | crcUpd | crcRd | crcCmp | regRd => exact ⟨_, _, rfl, hv, rfl, rfl, rfl⟩
  | pktPush b => exact ⟨_, _, exec_pktPush_refused hloading b, hv, rfl, rfl, rfl⟩
  | pktVal => exact ⟨_, _, exec_pktVal_refused hloading, hv, rfl, rfl, rfl⟩
  | fldDec off fmt sent conv pdiv =>
    exact ⟨_, _, exec_fldDec_refused hvalid off fmt sent conv pdiv, hv, rfl, rfl, rfl⟩

end Sys2Proof.Machine

/-! PROOFS. The state after reset (70_reset_and_hazards.md R191). The two parts of the statement are one: the reset state
is itself what the reset input leads to. -/

namespace Sys2Proof.Machine

/-- A status register whose every field has the code 0 reads 0 (10_state.md R23). -/
theorem statusView_eq_zero {s : State} (hfail : s.failcode = .ok) (hmatch : s.matchFlag = false) (habs : s.abs = false)
    (hkind : s.kind = .loop) (hvs : s.vs = .loading) (hlst : s.lst = .ok) : statusView s = 0 := by
  apply BitVec.eq_of_toNat_eq
  rw [statusView_toNat, hfail, hmatch, habs, hkind, hvs, hlst]
  rfl

/-- The rows of the table of R191, PKT without a value and the STATUS view included. -/
def HoldsResetValues (s : State) : Prop :=
  s.acc = 0x0000 ∧ s.matchFlag = false ∧ (∀ a, readByte s.pkt a = none) ∧ s.len = 0 ∧ s.kind = .loop ∧
    s.vs = .loading ∧ s.failcode = .ok ∧ s.raw = 0x0000 ∧ s.res = 0 ∧ s.abs = false ∧ s.lst = .ok ∧ statusView s = 0

theorem assertReset_holdsResetValues (s : State) : HoldsResetValues (assertReset s) :=
  ⟨assertReset_acc s, assertReset_matchFlag s, readByte_nil, assertReset_len s, assertReset_kind s, assertReset_vs s,
    assertReset_failcode s, assertReset_raw s, assertReset_res s, assertReset_abs s, assertReset_lst s,
    statusView_eq_zero (assertReset_failcode s) (assertReset_matchFlag s) (assertReset_abs s) (assertReset_kind s)
      (assertReset_vs s) (assertReset_lst s)⟩

/-- Reset changes nothing in a state just reset. -/
theorem assertReset_resetWith (c : Config) : assertReset (State.resetWith c) = State.resetWith c := rfl

theorem resetWith_holdsResetValues (c : Config) : HoldsResetValues (State.resetWith c) :=
  assertReset_resetWith c ▸ assertReset_holdsResetValues (State.resetWith c)

/-! ### The obligation -/

/-- Settles O10: the step of a reset input is assertReset, which writes every row of R191; State.reset is the reset state
of the default parameters. -/
theorem resetLeavesTheListedValues : Obligations.ResetLeavesTheListedValues := by
  unfold Obligations.ResetLeavesTheListedValues
  exact ⟨fun s rest h => ⟨_, step_of_reset h, assertReset_holdsResetValues { s with inbox := rest }⟩,
    resetWith_holdsResetValues Config.specDefault⟩

end Sys2Proof.Machine

/-! PROOFS. The command word both ways (30_encoding.md R67): a word spells a command exactly when the command has legal
operands and the word is the one the encoder writes, so decoding and encoding undo each other. -/

namespace Sys2Proof.Machine

/-! ### The word that spells a command -/

theorem encode_nop_toNat : (encode .nop).toNat = 0x00000000 := rfl
theorem encode_crcClr_toNat : (encode .crcClr).toNat = 0x10000000 := rfl
theorem encode_crcRd_toNat : (encode .crcRd).toNat = 0x30000000 := rfl
theorem encode_pktVal_toNat : (encode .pktVal).toNat = 0x70000000 := rfl

theorem pdivFits_and_fmtFits_of_wellFormed {off : Offset} {fmt : Fmt} {sent : Sent} {conv : Conv} {pdiv : Pdiv}
    (h : wellFormed (.fldDec off fmt sent conv pdiv) = true) : pdivFits conv pdiv = true ∧ fmtFits conv fmt = true := by
  simpa [wellFormed] using h

/-- The encoder puts the opcode, the clear bits and each operand where the formats say (30_encoding.md R61). -/
theorem spells_encode {i : Instr} (h : wellFormed i = true) : spells (encode i) i := by
  cases i with
  | nop | crcClr | crcRd | pktVal => exact ⟨by decide, by decide⟩
  | crcUpd b => exact spells_of_decode (decode_of_toNat_crcUpd (encode_crcUpd_toNat b))
  | crcCmp hi lo => exact spells_of_decode (decode_of_toNat_crcCmp (encode_crcCmp_toNat hi lo))
  | pktPush b => exact spells_of_decode (decode_of_toNat_pktPush (encode_pktPush_toNat b))
  | pktClr k => cases k <;> exact ⟨⟨by decide, by decide⟩, by decide⟩
  | regRd r => cases r <;> exact ⟨⟨by decide, by decide⟩, by decide⟩
  | fldDec off fmt sent conv pdiv =>
    have hoff := off.isLt
    have hfmt := (fmtCode fmt).isLt
    have hsent := (sentCode sent).isLt
    have hconv := (convCode conv).isLt
    have hpdiv := (pdivCode pdiv).isLt
    refine ⟨⟨?op, ?mbz⟩, field_eq_iff.mpr ?off, ?fmt, ?sent, ?conv, ?pdiv, pdivFits_and_fmtFits_of_wellFormed h⟩
    all_goals simp only [wordBits, encode_fldDec_toNat]; omega

/-- The opcode, the clear bits and the operands are all of a word, so the word is the encoder's. -/
theorem encode_eq_of_spells {w : CmdWord} {i : Instr} (h : spells w i) : encode i = w := by
  have hw := w.isLt
  apply BitVec.eq_of_toNat_eq
  cases i with
  | nop | crcClr | crcRd | pktVal =>
    obtain ⟨hop, hz⟩ := h
    simp only [wordBits] at hop hz
    simp only [encode_nop_toNat, encode_crcClr_toNat, encode_crcRd_toNat, encode_pktVal_toNat]
    omega
  | crcUpd b | pktPush b =>
    obtain ⟨⟨hop, hz⟩, hb⟩ := h
    simp only [wordBits, field_eq_iff] at hop hz hb
    simp only [encode_crcUpd_toNat, encode_pktPush_toNat]
    omega
  | crcCmp hi lo =>
    obtain ⟨⟨hop, hz⟩, hhi, hlo⟩ := h
    simp only [wordBits, field_eq_iff] at hop hz hhi hlo
    rw [encode_crcCmp_toNat]
    omega
  | pktClr k =>
    obtain ⟨⟨hop, hz⟩, rfl⟩ := h
    simp only [wordBits] at hop hz
    rw [encode_pktClr_toNat, kindCode_kindOfCode, toNat_field]
    omega
  | fldDec off fmt sent conv pdiv =>
    obtain ⟨⟨hop, hz⟩, hoff, hfmt, hsent, hconv, hpdiv, -⟩ := h
    simp only [wordBits, field_eq_iff] at hop hz hoff hfmt hsent hconv hpdiv
    rw [encode_fldDec_toNat]
    omega
  | regRd r =>
    obtain ⟨⟨hop, hz⟩, hr⟩ := h
    simp only [wordBits] at hop hz hr
    rw [encode_regRd_toNat]
    omega

theorem wellFormed_of_spells {w : CmdWord} {i : Instr} (h : spells w i) : wellFormed i = true := by
  cases i with
  | fldDec off fmt sent conv pdiv =>
    obtain ⟨-, -, -, -, -, -, hp, hf⟩ := h
    simp [wellFormed, hp, hf]
  | _ => rfl

theorem decode_encode {i : Instr} (h : wellFormed i = true) : decode (encode i) = .ok i :=
  decode_of_spells (spells_encode h)

theorem decode_of_encode_eq {w : CmdWord} {i : Instr} (hw : encode i = w) (h : wellFormed i = true) :
    decode w = .ok i := hw ▸ decode_encode h

/-! ### The obligations -/

/-- Settles O1: the encoder's word has the row and the operands the decoder reads. -/
theorem decodeOfEncodeIsTheCommand : Obligations.DecodeOfEncodeIsTheCommand := by
  unfold Obligations.DecodeOfEncodeIsTheCommand
  exact fun _ => decode_encode

/-- Settles O2: the row and the operands the decoder reads are all of the word, and it checks the operands. -/
theorem legalWordIsItsCommandsOnlyWord : Obligations.LegalWordIsItsCommandsOnlyWord := by
  unfold Obligations.LegalWordIsItsCommandsOnlyWord
  intro w i h
  have hspells := spells_of_decode h
  exact ⟨wellFormed_of_spells hspells, encode_eq_of_spells hspells⟩

/-- Settles O5: each printed word is the one the encoder writes for its command. -/
theorem wordsWrittenOutDecode : Obligations.WordsWrittenOutDecode := by
  unfold Obligations.WordsWrittenOutDecode
  refine ⟨?_, ?_, ?_, ?_, ?_, ?_, ?_, ?_, ?_⟩
  all_goals exact decode_of_encode_eq (by decide) rfl

end Sys2Proof.Machine

/-! PROOFS. The CRC as a function (40_crc_engine.md section 2): the bit-serial shifts are linear and injective, so the
printed table is the one the generation rule gives (10_state.md R12), the table-driven step is eight shifts (R88), a CRC
cancels itself (R89), and a change of one bit is never lost (R91). -/

namespace Sys2Proof.Machine

/-! ### The bit-serial shifts -/

theorem shiftBit_of_msb_false {c : Crc} (h : c.msb = false) : shiftBit c = c <<< 1 := by simp [shiftBit, h]

theorem shiftBit_of_msb_true {c : Crc} (h : c.msb = true) : shiftBit c = (c <<< 1) ^^^ 0x1021 := by simp [shiftBit, h]

/-- The polynomial comes in once for each of the two top bits, and twice is not at all. -/
theorem shiftBit_xor (a b : Crc) : shiftBit (a ^^^ b) = shiftBit a ^^^ shiftBit b := by
  have hmsb : (a ^^^ b).msb = (a.msb ^^ b.msb) := BitVec.msb_xor
  cases ha : a.msb <;> cases hb : b.msb <;> simp only [shiftBit, hmsb, ha, hb, BitVec.shiftLeft_xor_distrib] <;> grind

/-- The polynomial is odd and a shifted value is even, so a shift with the polynomial does not give zero. -/
theorem eq_zero_of_shiftBit_eq_zero {c : Crc} (h : shiftBit c = 0) : c = 0 := by
  cases hc : c.msb with
  | false =>
    rw [shiftBit_of_msb_false hc] at h
    rw [BitVec.msb_eq_false_iff_two_mul_lt] at hc
    have hzero := congrArg BitVec.toNat h
    rw [BitVec.toNat_shiftLeft, Nat.shiftLeft_eq, Nat.mod_eq_of_lt (by omega)] at hzero
    exact BitVec.eq_of_toNat_eq (by simpa using hzero)
  | true =>
    rw [shiftBit_of_msb_true hc] at h
    have := congrArg (·.getLsbD 0) h
    simp at this

theorem shiftBit_injective : Function.Injective shiftBit := by
  intro a b h
  have hzero : shiftBit (a ^^^ b) = 0 := by rw [shiftBit_xor, h, BitVec.xor_self]; rfl
  exact BitVec.xor_eq_zero_iff.mp (eq_zero_of_shiftBit_eq_zero hzero)

theorem repeat_shiftBit_xor (n : Nat) (a b : Crc) :
    Nat.repeat shiftBit n (a ^^^ b) = Nat.repeat shiftBit n a ^^^ Nat.repeat shiftBit n b := by
  induction n with
  | zero => rfl
  | succ n ih => simp only [Nat.repeat, ih, shiftBit_xor]

theorem repeat_shiftBit_injective (n : Nat) : Function.Injective (Nat.repeat shiftBit n) := by
  induction n with
  | zero => exact Function.injective_id
  | succ n ih => exact shiftBit_injective.comp ih

/-- Shifts that push no bit out never meet the polynomial. -/
theorem repeat_shiftBit_of_lt {n : Nat} {c : Crc} (h : c.toNat * 2 ^ n < 2 ^ 16) :
    Nat.repeat shiftBit n c = c <<< n := by
  induction n with
  | zero => simp [Nat.repeat]
  | succ n ih =>
    have hlt : c.toNat * 2 ^ n < 2 ^ 15 := by rw [pow_succ, ← mul_assoc] at h; omega
    have hmsb : (c <<< n).msb = false := by
      rw [BitVec.msb_eq_false_iff_two_mul_lt, BitVec.toNat_shiftLeft, Nat.shiftLeft_eq]
      omega
    rw [Nat.repeat, ih (by omega), shiftBit_of_msb_false hmsb, ← BitVec.shiftLeft_add]

theorem shiftByte_xor (a b : Crc) : shiftByte (a ^^^ b) = shiftByte a ^^^ shiftByte b := repeat_shiftBit_xor 8 a b

theorem shiftByte_injective : Function.Injective shiftByte := repeat_shiftBit_injective 8

/-! ### The table -/

/-- The printed table against the generation rule, entry by entry (10_state.md R12). -/
theorem crcTable_eq_generatedEntry (i : Byte) : crcTable i = generatedEntry i := by revert i; decide

theorem generatedEntry_injective : Function.Injective generatedEntry := by
  intro a b h
  have happ : a ++ 0#8 = b ++ 0#8 := shiftByte_injective h
  have := congrArg BitVec.toNat happ
  simp only [toNat_append_eq] at this
  exact BitVec.eq_of_toNat_eq (by omega)

theorem crcTable_injective : Function.Injective crcTable :=
  funext crcTable_eq_generatedEntry ▸ generatedEntry_injective

/-! ### One step -/

theorem high_append_low (acc : Crc) : acc.extractLsb' 8 8 ++ acc.extractLsb' 0 8 = acc :=
  (BitVec.extractLsb'_append_extractLsb'_eq_extractLsb' (by decide)).trans BitVec.extractLsb'_eq_self

/-- Eight shifts move a low byte up and drop nothing. -/
theorem shiftByte_low (acc : Crc) : shiftByte (0#8 ++ acc.extractLsb' 0 8) = acc <<< 8 := by
  have hval : (0#8 ++ acc.extractLsb' 0 8).toNat = acc.toNat % 2 ^ 8 := by
    rw [toNat_append_eq, BitVec.extractLsb'_toNat]
    simp
  have hlt : (0#8 ++ acc.extractLsb' 0 8).toNat * 2 ^ 8 < 2 ^ 16 := by omega
  rw [shiftByte, repeat_shiftBit_of_lt hlt]
  apply BitVec.eq_of_toNat_eq
  rw [BitVec.toNat_shiftLeft, BitVec.toNat_shiftLeft, hval, Nat.shiftLeft_eq, Nat.shiftLeft_eq]
  omega

/-- The table-driven step is the bit-serial one: the high byte goes through the table, the low byte is only moved up. -/
theorem crcStep_eq_serialByte (acc : Crc) (b : Byte) : crcStep acc b = serialByte acc b := by
  have hsplit : acc ^^^ (b ++ 0#8) = ((acc.extractLsb' 8 8 ^^^ b) ++ 0#8) ^^^ (0#8 ++ acc.extractLsb' 0 8) := by
    calc acc ^^^ (b ++ 0#8)
        = (acc.extractLsb' 8 8 ++ acc.extractLsb' 0 8) ^^^ (b ++ 0#8) := by rw [high_append_low]
      _ = (acc.extractLsb' 8 8 ^^^ b) ++ (acc.extractLsb' 0 8 ^^^ 0#8) := BitVec.xor_append
      _ = ((acc.extractLsb' 8 8 ^^^ b) ^^^ 0#8) ++ (0#8 ^^^ acc.extractLsb' 0 8) := by
        rw [BitVec.xor_zero, BitVec.xor_zero, BitVec.zero_xor]
      _ = ((acc.extractLsb' 8 8 ^^^ b) ++ 0#8) ^^^ (0#8 ++ acc.extractLsb' 0 8) := BitVec.xor_append.symm
  calc crcStep acc b
      = generatedEntry (acc.extractLsb' 8 8 ^^^ b) ^^^ (acc <<< 8) := by rw [crcStep, crcTable_eq_generatedEntry]
    _ = shiftByte ((acc.extractLsb' 8 8 ^^^ b) ++ 0#8) ^^^ shiftByte (0#8 ++ acc.extractLsb' 0 8) := by
      rw [generatedEntry, shiftByte_low]
    _ = serialByte acc b := by rw [← shiftByte_xor, ← hsplit, serialByte]

theorem crcStep_injective_left (b : Byte) : Function.Injective (crcStep · b) := by
  intro x y h
  simp only [crcStep_eq_serialByte, serialByte] at h
  exact (BitVec.xor_left_inj _).mp (shiftByte_injective h)

theorem crcStep_injective_right (acc : Crc) : Function.Injective (crcStep acc) := by
  intro x y h
  have htable := crcTable_injective ((BitVec.xor_left_inj _).mp h)
  exact (BitVec.xor_right_inj _).mp htable

theorem crcTable_zero : crcTable 0 = 0 := by decide

/-- Feeding the accumulator's own high byte cancels it (40_crc_engine.md R89). -/
theorem crcStep_own_high_byte (acc : Crc) : crcStep acc (acc.extractLsb' 8 8) = acc <<< 8 := by
  rw [crcStep, BitVec.xor_self]
  exact (congrArg (· ^^^ _) crcTable_zero).trans BitVec.zero_xor

/-! ### Sequences -/

theorem foldl_crcStep_injective (bytes : List Byte) : Function.Injective fun acc => bytes.foldl crcStep acc := by
  induction bytes with
  | nil => exact Function.injective_id
  | cons b bytes ih => exact ih.comp (crcStep_injective_left b)

/-- A change of one byte is never lost. -/
theorem crc16_set_ne {m : List Byte} {i : Nat} {b c : Byte} (hb : m[i]? = some b) (hc : c ≠ b) :
    crc16 (m.set i c) ≠ crc16 m := by
  obtain ⟨hi, rfl⟩ := List.getElem?_eq_some_iff.mp hb
  have hm : m = m.take i ++ m[i] :: m.drop (i + 1) := by simp
  intro h
  rw [List.set_eq_take_cons_drop c hi] at h
  conv_rhs at h => rw [hm]
  rw [crc16_append, crc16_append] at h
  exact hc (crcStep_injective_right _ (foldl_crcStep_injective _ h))

/-- Exclusive-or with a single bit of the byte changes it. -/
theorem xor_bit_ne {k : Nat} (hk : k < 8) (b : Byte) : b ^^^ (1#8 <<< k) ≠ b := by
  intro h
  have hbit := congrArg (·.getLsbD k) h
  simp [hk] at hbit

theorem crc16_replicate_zero (n : Nat) : crc16 (List.replicate n 0) = 0 := by
  induction n with
  | zero => rfl
  | succ n ih =>
    rw [List.replicate_succ', crc16_concat, ih]
    decide

/-! ### The obligations -/

/-- Settles O13: each printed entry follows the rule, and eight shifts lose nothing of the index. -/
theorem tableFollowsTheGenerationRule : Obligations.TableFollowsTheGenerationRule := by
  unfold Obligations.TableFollowsTheGenerationRule
  exact ⟨crcTable_eq_generatedEntry, crcTable_injective⟩

/-- Settles O15: from the accumulator 0 one byte is its own table entry, and the entry of 0 is 0. -/
theorem crcOfSmallSequences : Obligations.CrcOfSmallSequences := by
  unfold Obligations.CrcOfSmallSequences
  have hbyte (b : Byte) : crc16 [b] = crcTable b := by simp [crc16, crcStep, crcInit]
  rw [hbyte, hbyte, hbyte, hbyte]
  exact ⟨rfl, hbyte, by decide, by decide, by decide, by decide, crc16_replicate_zero⟩

/-- Settles O16: step by step the table does eight shifts; the check value is the rule's on the nine digits. -/
theorem crcEqualsTheBitSerialCrc : Obligations.CrcEqualsTheBitSerialCrc := by
  unfold Obligations.CrcEqualsTheBitSerialCrc
  have hstep : crcStep = serialByte := funext fun acc => funext fun b => crcStep_eq_serialByte acc b
  refine ⟨fun bytes => by rw [crc16, hstep]; rfl, by decide⟩

/-- Settles O17: the accumulator's high byte cancels itself, then so does the low byte moved up. -/
theorem crcResidueIsZero : Obligations.CrcResidueIsZero := by
  unfold Obligations.CrcResidueIsZero
  intro m
  have hlow : (crc16 m).extractLsb' 0 8 = (crc16 m <<< 8).extractLsb' 8 8 := by
    apply BitVec.eq_of_toNat_eq
    simp only [BitVec.extractLsb'_toNat, BitVec.toNat_shiftLeft, Nat.shiftLeft_eq, Nat.shiftRight_eq_div_pow]
    omega
  rw [crc16_append, List.foldl_cons, List.foldl_cons, List.foldl_nil, crcStep_own_high_byte, hlow, crcStep_own_high_byte,
    ← BitVec.shiftLeft_add]
  exact BitVec.shiftLeft_eq_zero (by decide)

/-- Settles O18: the flipped bit changes its byte, and no step loses the change. -/
theorem singleBitFlipChangesTheCrc : Obligations.SingleBitFlipChangesTheCrc := by
  unfold Obligations.SingleBitFlipChangesTheCrc
  exact fun m i k b hb hk => crc16_set_ne hb (xor_bit_ne hk b)

end Sys2Proof.Machine

/-! PROOFS. The size of the results (42_field_decode.md R141), the ties of the conversions (R142), the sectors of COMPASS
(R135) and the independence of fields (R140). -/

namespace Sys2Proof.Machine

/-! ### The largest magnitudes -/

/-- The largest magnitude of each conversion (42_field_decode.md R141); INHG2HPA meets a tie at the largest N. -/
def maxMagnitude (tie : RoundTie) : Conv → Int
  | .raw => 65535000
  | .f2c => 36390556
  | .mph2ms => 29296766
  | .inhg2hpa => match tie with | .halfEven => 2219270686 | .halfAway => 2219270687
  | .clicks2mm => 16645890
  | .compass => 15
  | .hhmm => 167715

theorem maxMagnitude_lt (tie : RoundTie) (conv : Conv) : maxMagnitude tie conv < 2 ^ 32 := by
  cases conv <;> cases tie <;> decide

/-- The rounder is at most half the divisor off, on either side. -/
theorem rnd_mul_range {num den : Int} (hden : 0 < den) (tie : RoundTie) :
    2 * num - den ≤ 2 * (rnd tie num den * den) ∧ 2 * (rnd tie num den * den) ≤ 2 * num + den := by
  obtain ⟨hhalf, -⟩ := rnd_isRounding (num := num) hden tie
  have habove := le_abs_self (rnd tie num den * den - num)
  have hbelow := neg_abs_le (rnd tie num den * den - num)
  omega

/-- The half-even rounder goes up from a tie only to an even integer. -/
theorem rnd_halfEven_even_of_up {num den : Int} (hden : 0 < den)
    (h : 2 * (rnd .halfEven num den * den) = 2 * num + den) : rnd .halfEven num den % 2 = 0 := by
  obtain ⟨-, htie⟩ := rnd_isRounding (num := num) hden .halfEven
  refine (htie ?_).1 rfl
  rw [abs_of_pos] <;> omega

section
variable {tie : RoundTie} {n : Int} (hlow : -32768 ≤ n) (hhigh : n ≤ 65535)
include hlow hhigh

theorem abs_convRaw_le (pdiv : Pdiv) : |convRaw tie n (divisor pdiv)| ≤ 65535000 := by
  rw [convRaw_eq_mul, abs_le]
  cases pdiv <;> simp only [divisor] <;> omega

theorem abs_convF2c_le (pdiv : Pdiv) : |convF2c tie n (divisor pdiv)| ≤ 36390556 := by
  have hp := divisor_pos pdiv
  have hoff := rnd_mul_range (num := (n - 32 * divisor pdiv) * 5000) (den := 9 * divisor pdiv) (by omega) tie
  rw [convF2c, abs_le]
  cases pdiv <;> simp only [divisor] at hoff ⊢ <;> omega

theorem abs_convMph2ms_le (pdiv : Pdiv) : |convMph2ms tie n (divisor pdiv)| ≤ 29296766 := by
  have hp := divisor_pos pdiv
  have hoff := rnd_mul_range (num := n * 44704) (den := 100 * divisor pdiv) (by omega) tie
  rw [convMph2ms, abs_le]
  cases pdiv <;> simp only [divisor] at hoff ⊢ <;> omega

theorem abs_convInhg2hpa_le (pdiv : Pdiv) : |convInhg2hpa tie n (divisor pdiv)| ≤ maxMagnitude tie .inhg2hpa := by
  have hp := divisor_pos pdiv
  have hoff := rnd_mul_range (num := n * 338639) (den := 10 * divisor pdiv) (by omega) tie
  rw [convInhg2hpa, abs_le]
  cases tie with
  | halfAway => cases pdiv <;> simp only [divisor, maxMagnitude] at hoff ⊢ <;> omega
  | halfEven =>
    have hup := rnd_halfEven_even_of_up (num := n * 338639) (den := 10 * divisor pdiv) (by omega)
    cases pdiv <;> simp only [divisor, maxMagnitude] at hoff hup ⊢ <;> omega

theorem abs_convClicks2mm_le (pdiv : Pdiv) : |convClicks2mm tie n (divisor pdiv)| ≤ 16645890 := by
  have hoff := rnd_mul_range (num := n * 254) (divisor_pos pdiv) tie
  rw [convClicks2mm, abs_le]
  cases pdiv <;> simp only [divisor] at hoff ⊢ <;> omega

end

theorem convCompass_range (n : Int) : 0 ≤ convCompass n ∧ convCompass n ≤ 15 := by
  unfold convCompass
  omega

/-- A negative N has hour 0 and a minute below 100 (log 7). -/
theorem abs_convHhmm_le {n : Int} (hhigh : n ≤ 65535) : |convHhmm n| ≤ 167715 := by
  have hpacked : convHhmm n = 256 * (n / 100).toNat + (n % 100).toNat := by
    rw [convHhmm, ← Nat.shiftLeft_add_eq_or_of_lt (by omega), Nat.shiftLeft_eq]
    omega
  rw [hpacked, abs_le]
  omega

theorem abs_convert_le {n : Int} (tie : RoundTie) (conv : Conv) (pdiv : Pdiv) (hlow : -32768 ≤ n) (hhigh : n ≤ 65535) :
    |convert tie conv n (divisor pdiv)| ≤ maxMagnitude tie conv := by
  cases conv with
  | raw => exact abs_convRaw_le hlow hhigh pdiv
  | f2c => exact abs_convF2c_le hlow hhigh pdiv
  | mph2ms => exact abs_convMph2ms_le hlow hhigh pdiv
  | inhg2hpa => exact abs_convInhg2hpa_le hlow hhigh pdiv
  | clicks2mm => exact abs_convClicks2mm_le hlow hhigh pdiv
  | compass =>
    obtain ⟨hmin, hmax⟩ := convCompass_range n
    exact abs_le.mpr ⟨by simp only [maxMagnitude, convert]; omega, hmax⟩
  | hhmm => exact abs_convHhmm_le hhigh

/-- Every conversion of a raw integer fits RES (42_field_decode.md R141). -/
theorem convert_range {n : Int} (tie : RoundTie) (conv : Conv) (pdiv : Pdiv) (hlow : -32768 ≤ n) (hhigh : n ≤ 65535) :
    -2 ^ 32 < convert tie conv n (divisor pdiv) ∧ convert tie conv n (divisor pdiv) < 2 ^ 32 := by
  have hmag := (abs_convert_le tie conv pdiv hlow hhigh).trans_lt (maxMagnitude_lt tie conv)
  exact abs_lt.mp hmag

theorem toInt_ofInt_of_range {r : Int} (hlow : -2 ^ 32 < r) (hhigh : r < 2 ^ 32) : (BitVec.ofInt 64 r).toInt = r :=
  BitVec.toInt_ofInt_eq_self (by decide) (by omega) (by omega)

/-! ### The ties -/

/-- The tie rule is asked only where the remainder is half the divisor (42_field_decode.md R129). -/
theorem tie_of_rnd_ne {num den : Int} (h : rnd .halfEven num den ≠ rnd .halfAway num den) :
    2 * (num % den) = den := by
  rcases rnd_cases .halfEven num den with ⟨hr, -⟩ | ⟨hr, -⟩ | ⟨hr, -⟩
  · exact absurd (by simp [rnd, hr]) h
  · exact absurd (by simp [rnd, hr, Int.not_lt.mpr (Int.le_of_lt hr)]) h
  · exact hr

/-- RAW divides exactly, so its remainder is 0. -/
theorem raw_never_ties (n : Int) (p : Pdiv) : 2 * (1000 * n % divisor p) ≠ divisor p := by
  cases p <;> simp only [divisor] <;> omega

/-- 338639 is odd and prime to 5, so half the divisor is met where N itself is half of it. -/
theorem inhg2hpa_tie_iff (n : Int) (p : Pdiv) :
    2 * (n * 338639 % (10 * divisor p)) = 10 * divisor p ↔ n % (10 * divisor p) = 5 * divisor p := by
  cases p <;> simp only [divisor] <;> omega

/-- 254 has one factor 2, so only a divisor with a further factor 2 beside it can be met half way. -/
theorem clicks2mm_tie_iff (n : Int) (p : Pdiv) :
    2 * (n * 254 % divisor p) = divisor p ↔
      (divisor p = 100 ∧ n % 50 = 25) ∨ (divisor p = 1000 ∧ n % 500 = 250) := by
  cases p <;> simp [divisor] <;> omega

/-! ### The obligations -/

/-- Settles O43: each rounded conversion is at most half away from its exact value, whose largest magnitude is at the
largest N; at that N the conversions reach it. -/
theorem resultsFitTheResultRegister : Obligations.ResultsFitTheResultRegister := by
  unfold Obligations.ResultsFitTheResultRegister
  refine ⟨fun tie conv n pdiv hlow hhigh _ => ?bounds, ?_, ?_, ?_, ?_, ?_, ?_, ?_, ?_⟩
  case bounds =>
    obtain ⟨hmin, hmax⟩ := convert_range tie conv pdiv hlow hhigh
    refine ⟨?magnitude, hmin, hmax, toInt_ofInt_of_range hmin hmax⟩
    case magnitude =>
      have hmag := abs_convert_le tie conv pdiv hlow hhigh
      cases conv <;> exact hmag
  all_goals decide

/-- Settles O40: a conversion whose fraction meets no tie is the same under both rules; the ties are by the divisor. -/
theorem tieRuleMattersOnlyWhereListed : Obligations.TieRuleMattersOnlyWhereListed := by
  unfold Obligations.TieRuleMattersOnlyWhereListed
  intro n pdiv
  refine ⟨raw_never_ties n pdiv, f2c_never_ties n pdiv, mph2ms_never_ties n pdiv, inhg2hpa_tie_iff n pdiv,
    clicks2mm_tie_iff n pdiv, fun conv hne => ?_⟩
  cases conv with
  | raw => exact absurd (tie_of_rnd_ne hne) (raw_never_ties n pdiv)
  | f2c => exact absurd (tie_of_rnd_ne hne) (f2c_never_ties n pdiv)
  | mph2ms => exact absurd (tie_of_rnd_ne hne) (mph2ms_never_ties n pdiv)
  | inhg2hpa => exact .inl ⟨rfl, (inhg2hpa_tie_iff n pdiv).mp (tie_of_rnd_ne hne)⟩
  | clicks2mm => exact .inr ⟨rfl, (clicks2mm_tie_iff n pdiv).mp (tie_of_rnd_ne hne)⟩
  | compass | hhmm => exact absurd rfl hne

/-- Settles O41: the nearest sector is the floor of N / 22.5 + 1 / 2, and 4N + 45 is odd, so it is never a tie. -/
theorem compassIsTheNearestSector : Obligations.CompassIsTheNearestSector := by
  unfold Obligations.CompassIsTheNearestSector
  intro tie n p
  obtain ⟨hmin, hmax⟩ := convCompass_range n
  refine ⟨rfl, hmin, hmax, (4 * n + 45) / 90, rfl, ?_⟩
  have hnear : |2 * n - 45 * ((4 * n + 45) / 90)| ≤ 22 := abs_le.mpr ⟨by omega, by omega⟩
  omega

/-- Settles O35: by the outcome of the first decode; the other state has the same VS, window and raw bits. -/
theorem fieldsAreIndependent : Obligations.FieldsAreIndependent := by
  unfold Obligations.FieldsAreIndependent
  intro off fmt sent conv pdiv s u t hs hu hpkt hkind hcfg h
  have hbitsEq := fieldBits_congr hpkt off fmt
  rcases exec_fldDec_cases h with ⟨hv, rfl⟩ | ⟨-, hw, rfl⟩ | ⟨bits, -, hw, hbits, ha, rfl⟩ |
    ⟨bits, -, hw, hbits, ha, rfl⟩
  · exact absurd hs hv
  all_goals rw [← hkind] at hw
  · exact ⟨_, _, exec_fldDec_outside hu hw sent conv pdiv, rfl, rfl, rfl, rfl, rfl, rfl, nofun⟩
  · exact ⟨_, _, exec_fldDec_absent hu hw (hbitsEq.trans hbits) ha conv pdiv, rfl, rfl, rfl, rfl, rfl,
      hu.trans hs.symm, fun _ => rfl⟩
  · have hexec := exec_fldDec_value hu hw (hbitsEq.trans hbits) ha conv pdiv
    rw [hcfg] at hexec
    exact ⟨_, _, hexec, rfl, rfl, rfl, rfl, rfl, hu.trans hs.symm, fun _ => rfl⟩

end Sys2Proof.Machine

/-! PROOFS. The invariant of the reachable states (10_state.md R27): it holds where a packet starts, every command and
every step keep it, so no run stops (00_scope.md R8); what a step leaves of the inputs that wait behind it (20_memory.md
R55); reset (70_reset_and_hazards.md R190 to R192). -/

namespace Sys2Proof.Machine

/-! ### States that meet the invariant -/

/-- Every item of the invariant holds of an empty packet, whatever the CRC engine and the port hold. -/
theorem inv_of_empty_packet {s : State} (hpkt : s.pkt = []) (hlen : s.len = 0) (hvs : s.vs = .loading)
    (hfail : s.failcode = .ok) (hraw : s.raw = 0) (hres : s.res = 0) (habs : s.abs = false) (hcfg : s.cfg.inRange) :
    Inv s where
  buffer := by simp [bufferHoldsPushedBytes, hpkt, hlen]
  failcodeZero := by simp [hfail, hvs]
  failcodeRange h := by simp [hvs] at h
  validated h := by simp [hvs] at h
  absentNoResult _ := hres
  loadingCleared _ := ⟨hraw, hres, habs⟩
  resRange := by simp [hres]
  parameters := hcfg

theorem inv_startPacket {s : State} (h : s.cfg.inRange) (k : Kind) : Inv (startPacket s k) :=
  inv_of_empty_packet rfl rfl rfl rfl rfl rfl rfl h

theorem inv_assertReset {s : State} (h : s.cfg.inRange) : Inv (assertReset s) :=
  inv_of_empty_packet rfl rfl rfl rfl rfl rfl rfl h

/-- The same packet unit and parameters: the registers of the invariant. -/
def SamePacketUnit (s t : State) : Prop :=
  t.pkt = s.pkt ∧ t.len = s.len ∧ t.kind = s.kind ∧ t.vs = s.vs ∧ t.failcode = s.failcode ∧
    t.raw = s.raw ∧ t.res = s.res ∧ t.abs = s.abs ∧ t.cfg = s.cfg

/-- The invariant speaks of the packet unit alone. -/
theorem inv_of_samePacketUnit {s t : State} (h : Inv s) (hst : SamePacketUnit s t) : Inv t := by
  obtain ⟨hpkt, hlen, hkind, hvs, hfail, hraw, hres, habs, hcfg⟩ := hst
  constructor
  case buffer => simpa only [bufferHoldsPushedBytes, hpkt, hlen] using h.buffer
  case failcodeZero => simpa only [hfail, hvs] using h.failcodeZero
  case failcodeRange => simpa only [hfail, hvs] using h.failcodeRange
  case validated =>
    intro hv
    rw [verdict_congr hpkt hlen hkind hcfg]
    exact h.validated (hvs ▸ hv)
  case absentNoResult => simpa only [habs, hres] using h.absentNoResult
  case loadingCleared => simpa only [hvs, hraw, hres, habs] using h.loadingCleared
  case resRange => simpa only [hres] using h.resRange
  case parameters => exact hcfg ▸ h.parameters

/-- An answer changes LST and the responses alone. -/
theorem inv_succeed {s : State} (h : Inv s) (d : Data) : Inv (succeed s d) :=
  inv_of_samePacketUnit h ⟨rfl, rfl, rfl, rfl, rfl, rfl, rfl, rfl, rfl⟩

theorem inv_refuseCommand {s : State} (h : Inv s) (st : Status) : Inv (refuseCommand s st) :=
  inv_of_samePacketUnit h ⟨rfl, rfl, rfl, rfl, rfl, rfl, rfl, rfl, rfl⟩

theorem inv_appendByte {s : State} (h : Inv s) (hv : s.vs = .loading) (b : Byte) : Inv (appendByte s b) where
  buffer := (appendByte_range h.buffer b).1
  failcodeZero := h.failcodeZero
  failcodeRange := h.failcodeRange
  validated hvalid := by simp [hv] at hvalid
  absentNoResult := h.absentNoResult
  loadingCleared := h.loadingCleared
  resRange := h.resRange
  parameters := h.parameters

/-- A packet becomes VALID only by the verdict the invariant asks of it (10_state.md R27 item 3). -/
theorem inv_validated {s : State} (h : Inv s) (hv : s.vs = .loading) (hok : verdict s = .ok .ok) :
    Inv { s with vs := .valid } where
  buffer := h.buffer
  failcodeZero := by simp [h.failcodeZero, hv]
  failcodeRange := nofun
  validated _ := (verdict_congr (s := { s with vs := .valid }) (t := s) rfl rfl rfl rfl).trans hok
  absentNoResult := h.absentNoResult
  loadingCleared := nofun
  resRange := h.resRange
  parameters := h.parameters

/-- A packet fails with a code of 1 to 6 (10_state.md R27 item 2). -/
theorem inv_failPacket {s : State} (h : Inv s) {f : Status} (hmin : 1 ≤ (statusCode f).toNat)
    (hmax : (statusCode f).toNat ≤ 6) : Inv (failPacket s f) where
  buffer := h.buffer
  failcodeZero := by cases f <;> simp [statusCode] at hmin ⊢
  failcodeRange _ := ⟨hmin, hmax⟩
  validated := nofun
  absentNoResult := h.absentNoResult
  loadingCleared := nofun
  resRange := h.resRange
  parameters := h.parameters

/-- On a VALID packet a field decode may write any result in range, and none if the field is absent. -/
theorem inv_with_result {s : State} (h : Inv s) (hv : s.vs = .valid) {raw : BitVec 16} {res : Data} {ab : Bool}
    (habs : ab = true → res = 0) (hrange : -2 ^ 32 < res.toInt ∧ res.toInt < 2 ^ 32) :
    Inv { s with raw := raw, res := res, abs := ab } where
  buffer := h.buffer
  failcodeZero := h.failcodeZero
  failcodeRange := h.failcodeRange
  validated _ := (verdict_congr (s := { s with raw := raw, res := res, abs := ab }) (t := s) rfl rfl rfl rfl).trans
    (h.validated hv)
  absentNoResult := habs
  loadingCleared hl := by simp [hv] at hl
  resRange := hrange
  parameters := h.parameters

theorem zero_result_range : -2 ^ 32 < (0 : Data).toInt ∧ (0 : Data).toInt < 2 ^ 32 := by decide

/-- The result of any field is in range, as its raw integer is (42_field_decode.md R141). -/
theorem fieldResult_range (tie : RoundTie) (fmt : Fmt) (conv : Conv) (pdiv : Pdiv) (bits : BitVec 16) :
    -2 ^ 32 < (BitVec.ofInt 64 (fieldResult tie fmt conv pdiv bits)).toInt ∧
      (BitVec.ofInt 64 (fieldResult tie fmt conv pdiv bits)).toInt < 2 ^ 32 := by
  obtain ⟨hlow, hhigh⟩ := rawInteger_range fmt bits
  obtain ⟨hmin, hmax⟩ := convert_range tie conv pdiv hlow hhigh
  rw [fieldResult, toInt_ofInt_of_range hmin hmax]
  exact ⟨hmin, hmax⟩

/-- The codes of the checks are 1 to 5 (60_exceptions.md R171). -/
theorem statusCode_of_verdict {s : State} {f : Status} (h : verdict s = .ok f) (hf : f ≠ .ok) :
    1 ≤ (statusCode f).toNat ∧ (statusCode f).toNat ≤ 6 := by
  rcases verdict_cases h with ⟨-, rfl⟩ | ⟨-, -, rfl⟩ | ⟨-, -, -, rfl⟩ | ⟨-, -, -, -, rfl⟩ | ⟨-, -, -, -, -, rfl⟩ |
    ⟨-, -, -, -, -, rfl⟩
  case inr.inr.inr.inr.inr => exact absurd rfl hf
  all_goals decide

/-! ### Every command and every step keep the invariant -/

theorem exec_pktPush_keeps_inv {s t : State} {b : Byte} (h : Inv s) (hexec : exec (.pktPush b) s = .next t) : Inv t := by
  rcases exec_pktPush_cases hexec with ⟨hv, rfl⟩ | ⟨-, rfl⟩
  · exact inv_succeed (inv_appendByte h hv b) _
  · exact inv_refuseCommand h _

theorem exec_pktVal_keeps_inv {s t : State} (h : Inv s) (hexec : exec .pktVal s = .next t) : Inv t := by
  rcases exec_pktVal_cases hexec with ⟨hv, hok, rfl⟩ | ⟨f, -, hfail, hf, rfl⟩ | ⟨-, rfl⟩
  · exact inv_succeed (inv_validated h hv hok) _
  · obtain ⟨hmin, hmax⟩ := statusCode_of_verdict hfail hf
    exact inv_failPacket h hmin hmax
  · exact inv_refuseCommand h _

theorem exec_fldDec_keeps_inv {s t : State} {off : Offset} {fmt : Fmt} {sent : Sent} {conv : Conv} {pdiv : Pdiv}
    (h : Inv s) (hexec : exec (.fldDec off fmt sent conv pdiv) s = .next t) : Inv t := by
  rcases exec_fldDec_cases hexec with ⟨-, rfl⟩ | ⟨hv, -, rfl⟩ | ⟨bits, hv, -, -, -, rfl⟩ | ⟨bits, hv, -, -, -, rfl⟩
  · exact inv_refuseCommand h _
  · exact inv_failPacket (inv_with_result h hv (fun _ => rfl) zero_result_range) (by decide) (by decide)
  · exact inv_of_samePacketUnit (inv_with_result h hv (fun _ => rfl) zero_result_range)
      ⟨rfl, rfl, rfl, rfl, rfl, rfl, rfl, rfl, rfl⟩
  · exact inv_succeed (inv_with_result h hv (ab := false) nofun (fieldResult_range s.cfg.roundTie fmt conv pdiv bits)) _

theorem exec_keeps_inv {i : Instr} {s t : State} (h : Inv s) (hexec : exec i s = .next t) : Inv t := by
  cases i with
  | pktPush b => exact exec_pktPush_keeps_inv h hexec
  | pktVal => exact exec_pktVal_keeps_inv h hexec
  | fldDec off fmt sent conv pdiv => exact exec_fldDec_keeps_inv h hexec
  | pktClr k =>
    obtain rfl := Host.Outcome.next.inj hexec
    exact inv_succeed (inv_startPacket h.parameters k) _
  | nop | crcClr | crcUpd | crcRd | crcCmp | regRd =>
    obtain rfl := Host.Outcome.next.inj hexec
    exact inv_of_samePacketUnit h ⟨rfl, rfl, rfl, rfl, rfl, rfl, rfl, rfl, rfl⟩

theorem step_keeps_inv {s t : State} (h : Inv s) (hstep : step s = .next t) : Inv t := by
  rcases step_cases hstep with ⟨-, rfl⟩ | ⟨rest, -, rfl⟩ | ⟨_, rest, _, -, -, hexec⟩ | ⟨_, rest, _, -, -, rfl⟩
  · exact h
  · exact inv_assertReset h.parameters
  · exact exec_keeps_inv (inv_with_inbox h rest) hexec
  · exact inv_refuseCommand (inv_with_inbox h rest) _

/-- A run from a state that meets the invariant answers a state that meets it. -/
theorem run_answers_inv (k : Nat) {s : State} (h : Inv s) : ∃ t, Host.Core.run core k s = .next t ∧ Inv t := by
  induction k generalizing s with
  | zero => exact ⟨s, run_zero s, h⟩
  | succ k ih =>
    obtain ⟨u, hu⟩ := step_answers h
    obtain ⟨t, ht, hinv⟩ := ih (step_keeps_inv h hu)
    exact ⟨t, (run_succ hu k).trans ht, hinv⟩

/-! ### The inputs that wait -/

theorem exec_inbox {i : Instr} {s t : State} (h : exec i s = .next t) : t.inbox = s.inbox := by
  cases i with
  | nop | crcClr | crcUpd | crcRd | crcCmp | pktClr | regRd =>
    obtain rfl := Host.Outcome.next.inj h
    rfl
  | pktPush b => rcases exec_pktPush_cases h with ⟨-, rfl⟩ | ⟨-, rfl⟩ <;> rfl
  | pktVal => rcases exec_pktVal_cases h with ⟨-, -, rfl⟩ | ⟨_, -, -, -, rfl⟩ | ⟨-, rfl⟩ <;> rfl
  | fldDec =>
    rcases exec_fldDec_cases h with ⟨-, rfl⟩ | ⟨-, -, rfl⟩ | ⟨_, -, -, -, -, rfl⟩ | ⟨_, -, -, -, -, rfl⟩ <;> rfl

/-- A command reads nothing of the inputs that wait, and what it answers differs in nothing else. -/
theorem exec_with_inbox {i : Instr} {s t : State} (h : exec i s = .next t) (other : List HostInput) :
    exec i { s with inbox := other } = .next { t with inbox := other } := by
  cases i with
  | nop | crcClr | crcUpd | crcRd | crcCmp | pktClr =>
    obtain rfl := Host.Outcome.next.inj h
    rfl
  | regRd r =>
    obtain rfl := Host.Outcome.next.inj h
    cases r <;> rfl
  | pktPush b =>
    rcases exec_pktPush_cases h with ⟨hv, rfl⟩ | ⟨hv, rfl⟩
    · exact exec_pktPush_loading (s := { s with inbox := other }) hv b
    · exact exec_pktPush_refused (s := { s with inbox := other }) hv b
  | pktVal =>
    have hverdict := verdict_with_inbox s other
    rcases exec_pktVal_cases h with ⟨hv, hok, rfl⟩ | ⟨f, hv, hfail, hf, rfl⟩ | ⟨hv, rfl⟩
    · exact exec_pktVal_ok hv (hverdict.trans hok)
    · exact exec_pktVal_fail hv (hverdict.trans hfail) hf
    · exact exec_pktVal_refused (s := { s with inbox := other }) hv
  | fldDec off fmt sent conv pdiv =>
    have hread : fieldBits { s with inbox := other } off fmt = fieldBits s off fmt :=
      fieldBits_congr (s := { s with inbox := other }) (t := s) rfl off fmt
    rcases exec_fldDec_cases h with ⟨hv, rfl⟩ | ⟨hv, hw, rfl⟩ | ⟨bits, hv, hw, hb, ha, rfl⟩ | ⟨bits, hv, hw, hb, ha, rfl⟩
    · exact exec_fldDec_refused (s := { s with inbox := other }) hv off fmt sent conv pdiv
    · exact exec_fldDec_outside (s := { s with inbox := other }) hv hw sent conv pdiv
    · exact exec_fldDec_absent (s := { s with inbox := other }) hv hw (hread.trans hb) ha conv pdiv
    · exact exec_fldDec_value (s := { s with inbox := other }) hv hw (hread.trans hb) ha conv pdiv

/-! ### The obligations -/

/-- Settles O52: by the next input and the command; the results are in range by the bounds of the conversions. -/
theorem everyStepKeepsTheInvariant : Obligations.EveryStepKeepsTheInvariant := by
  unfold Obligations.EveryStepKeepsTheInvariant
  exact fun _ _ => step_keeps_inv

/-- Settles O54: by induction on the number of steps, each of which answers and keeps the invariant. -/
theorem runsNeverStop : Obligations.RunsNeverStop := by
  unfold Obligations.RunsNeverStop
  exact fun k _ => run_answers_inv k

/-- Settles O53: the reset state holds an empty packet. -/
theorem resetMeetsTheInvariant : Obligations.ResetMeetsTheInvariant := by
  unfold Obligations.ResetMeetsTheInvariant
  have hreset {c : Config} (hc : c.inRange) : Inv (State.resetWith c) :=
    assertReset_resetWith c ▸ inv_assertReset hc
  exact ⟨hreset ⟨by decide, by decide⟩, fun c inputs hc => inv_with_inbox (hreset hc) inputs⟩

/-- Settles O8: by the next input; a command leaves the inbox and reads nothing of it. -/
theorem waitingInputsDoNotMatter : Obligations.WaitingInputsDoNotMatter := by
  unfold Obligations.WaitingInputsDoNotMatter
  intro s t e later other h
  cases e with
  | reset =>
    rw [step_of_reset rfl] at h
    obtain rfl := Host.Outcome.next.inj h
    exact ⟨rfl, step_of_reset rfl⟩
  | command w =>
    cases hd : decode w with
    | error r =>
      rw [step_of_decode_error rfl hd] at h
      obtain rfl := Host.Outcome.next.inj h
      exact ⟨rfl, step_of_decode_error rfl hd⟩
    | ok i =>
      rw [step_of_decode_ok rfl hd] at h
      refine ⟨exec_inbox h, ?_⟩
      rw [step_of_decode_ok rfl hd]
      exact exec_with_inbox h other

/-- Settles O7: there is no next input to take. -/
theorem stepWithoutInputChangesNothing : Obligations.StepWithoutInputChangesNothing := by
  unfold Obligations.StepWithoutInputChangesNothing
  exact fun _ => step_of_inbox_nil

/-- Settles O11: the reset input resets the registers alone. -/
theorem resetKeepsParametersAndPort : Obligations.ResetKeepsParametersAndPort := by
  unfold Obligations.ResetKeepsParametersAndPort
  exact fun s rest h => ⟨_, step_of_reset h, rfl, rfl, rfl⟩

/-- Settles O12: CRC.CLR clears ACC and PKT.CLR the packet unit, and the last of them LST; MATCH is neither's. -/
theorem clearSequenceEqualsReset : Obligations.ClearSequenceEqualsReset := by
  unfold Obligations.ClearSequenceEqualsReset
  exact fun s => ⟨_, _, exec_crcClr s, exec_pktClr .loop _, rfl, rfl⟩

end Sys2Proof.Machine

/-! PROOFS. Whole sequences of inputs: the CRC engine fed by a stream (40_crc_engine.md R86), PKT.LOAD from PKT.CLR to the
verdict (30_encoding.md R70), and the verdict on a packet with one bit flipped (90_conflicts.md C5). -/

namespace Sys2Proof.Machine

/-! ### Streaming -/

/-- The bytes fed by a stream are those of its first input, then those of the rest. -/
theorem fedBytes_cons (e : HostInput) (es : List HostInput) : fedBytes (e :: es) = fedBytes [e] ++ fedBytes es := by
  cases e with
  | reset => rfl
  | command w =>
    simp only [fedBytes]
    split <;> rfl

/-- Of the commands only CRC.CLR and CRC.UPD write ACC (10_state.md R11). -/
theorem exec_acc_of_ne_crcClr {w : CmdWord} {i : Instr} {s t : State} (hd : decode w = .ok i) (hclr : i ≠ .crcClr)
    (h : exec i s = .next t) : t.acc = (fedBytes [.command w]).foldl crcStep s.acc := by
  cases i with
  | crcClr => exact absurd rfl hclr
  | crcUpd | nop | crcRd | crcCmp | pktClr | regRd =>
    obtain rfl := Host.Outcome.next.inj h
    simp [fedBytes, hd]
  | pktPush b => rcases exec_pktPush_cases h with ⟨-, rfl⟩ | ⟨-, rfl⟩ <;> simp [fedBytes, hd]
  | pktVal => rcases exec_pktVal_cases h with ⟨-, -, rfl⟩ | ⟨_, -, -, -, rfl⟩ | ⟨-, rfl⟩ <;> simp [fedBytes, hd]
  | fldDec =>
    rcases exec_fldDec_cases h with ⟨-, rfl⟩ | ⟨-, -, rfl⟩ | ⟨_, -, -, -, -, rfl⟩ | ⟨_, -, -, -, -, rfl⟩ <;>
      simp [fedBytes, hd]

/-- One input of a stream: neither the reset nor a word of CRC.CLR. -/
def FeedsOnly (e : HostInput) : Prop := e ≠ .reset ∧ ∀ w, e = .command w → decode w ≠ .ok .crcClr

/-- A step of a stream feeds the byte of its input, if it has one, and takes the input. -/
theorem step_feeds {s : State} {e : HostInput} {rest : List HostInput} (h : Inv s) (hin : s.inbox = e :: rest)
    (he : FeedsOnly e) :
    ∃ t, step s = .next t ∧ Inv t ∧ t.inbox = rest ∧ t.acc = (fedBytes [e]).foldl crcStep s.acc := by
  obtain ⟨hreset, hclr⟩ := he
  obtain ⟨t, hstep⟩ := step_answers h
  refine ⟨t, hstep, step_keeps_inv h hstep, ?_⟩
  cases e with
  | reset => exact absurd rfl hreset
  | command w =>
    cases hd : decode w with
    | error r =>
      rw [step_of_decode_error hin hd] at hstep
      obtain rfl := Host.Outcome.next.inj hstep
      simp [fedBytes, hd]
    | ok i =>
      rw [step_of_decode_ok hin hd] at hstep
      have hne : i ≠ .crcClr := fun hi => hclr w rfl (hi ▸ hd)
      exact ⟨exec_inbox hstep, exec_acc_of_ne_crcClr (s := { s with inbox := rest }) hd hne hstep⟩

theorem run_feeds {inputs : List HostInput} {s : State} (h : Inv s) (hin : s.inbox = inputs)
    (hfeeds : ∀ e ∈ inputs, FeedsOnly e) :
    ∃ t, Host.Core.run core inputs.length s = .next t ∧ t.acc = (fedBytes inputs).foldl crcStep s.acc := by
  induction inputs generalizing s with
  | nil => exact ⟨s, run_zero s, rfl⟩
  | cons e rest ih =>
    obtain ⟨u, hstep, hinv, hinbox, hacc⟩ := step_feeds h hin (hfeeds e (by simp))
    obtain ⟨t, hrun, ht⟩ := ih hinv hinbox fun e' he' => hfeeds e' (by simp [he'])
    refine ⟨t, (run_succ hstep _).trans hrun, ?_⟩
    rw [ht, hacc, fedBytes_cons e rest, List.foldl_append]

/-! ### PKT.LOAD -/

/-- While LOADING a packet of kind `k`, these bytes have been pushed: the first 438 are stored, and LEN counts to 511
(41_packet_validate.md R102). -/
structure HasPushed (k : Kind) (bytes : List Byte) (s : State) : Prop where
  vs : s.vs = .loading
  kind : s.kind = k
  failcode : s.failcode = .ok
  buffer : bufferHoldsPushedBytes s
  stored : packetBytes s = bytes.take 438
  len : s.len.toNat = min bytes.length 511

/-- What PKT.LOAD leaves as it is: the parameters and the registers of the CRC engine. -/
def SameOutsidePacket (s t : State) : Prop := t.cfg = s.cfg ∧ t.acc = s.acc ∧ t.matchFlag = s.matchFlag

theorem SameOutsidePacket.trans {s t u : State} (hst : SameOutsidePacket s t) (htu : SameOutsidePacket t u) :
    SameOutsidePacket s u := by
  obtain ⟨hcfg, hacc, hmatch⟩ := hst
  obtain ⟨hcfg', hacc', hmatch'⟩ := htu
  exact ⟨hcfg'.trans hcfg, hacc'.trans hacc, hmatch'.trans hmatch⟩

theorem hasPushed_startPacket (s : State) (k : Kind) (d : Data) : HasPushed k [] (succeed (startPacket s k) d) where
  vs := rfl
  kind := rfl
  failcode := rfl
  buffer := rfl
  stored := rfl
  len := rfl

theorem hasPushed_appendByte {s : State} {k : Kind} {bytes : List Byte} (h : HasPushed k bytes s) (b : Byte) (d : Data) :
    HasPushed k (bytes ++ [b]) (succeed (appendByte s b) d) := by
  obtain ⟨hfst, hsnd⟩ := appendByte_range h.buffer b
  have hstored := h.stored
  have hlen := h.len
  refine ⟨h.vs, h.kind, h.failcode, hfst, ?stored, ?len⟩
  case len =>
    rw [succeed_len, appendByte_len, nextLen_toNat, hlen, List.length_append, List.length_singleton]
    omega
  case stored =>
    rw [packetBytes, succeed_pkt, hsnd]
    rw [packetBytes] at hstored
    by_cases hfull : bytes.length < 438
    · rw [if_pos (by omega), hstored, List.take_of_length_le (by omega), List.take_of_length_le (by simp; omega)]
    · rw [if_neg (by omega), hstored, List.take_append_of_le_length (by omega)]

/-- The step of a presented command (00_scope.md R8). -/
theorem step_of_encode {s : State} {i : Instr} {rest : List HostInput} (hin : s.inbox = .command (encode i) :: rest)
    (hwf : wellFormed i = true) : step s = exec i { s with inbox := rest } :=
  step_of_decode_ok hin (decode_encode hwf)

/-- The words of a list of commands, as the host presents them. -/
def presented (is : List Instr) : List HostInput := is.map fun i => .command (encode i)

theorem step_starts {k : Kind} {s : State} {rest : List HostInput}
    (hin : s.inbox = .command (encode (.pktClr k)) :: rest) :
    ∃ t, step s = .next t ∧ HasPushed k [] t ∧ t.inbox = rest ∧ SameOutsidePacket s t :=
  ⟨_, (step_of_encode hin rfl).trans (exec_pktClr k _), hasPushed_startPacket _ k 0, rfl, rfl, rfl, rfl⟩

theorem HasPushed.with_inbox {k : Kind} {bytes : List Byte} {s : State} (h : HasPushed k bytes s)
    (rest : List HostInput) : HasPushed k bytes { s with inbox := rest } :=
  ⟨h.vs, h.kind, h.failcode, h.buffer, h.stored, h.len⟩

theorem step_pushes {k : Kind} {pre : List Byte} {s : State} {b : Byte} {rest : List HostInput}
    (h : HasPushed k pre s) (hin : s.inbox = .command (encode (.pktPush b)) :: rest) :
    ∃ t, step s = .next t ∧ HasPushed k (pre ++ [b]) t ∧ t.inbox = rest ∧ SameOutsidePacket s t := by
  have hpushed := h.with_inbox rest
  exact ⟨_, (step_of_encode hin rfl).trans (exec_pktPush_loading hpushed.vs b), hasPushed_appendByte hpushed b _, rfl,
    rfl, rfl, rfl⟩

theorem run_pushes {k : Kind} {bytes pre : List Byte} {s : State} {rest : List HostInput} (h : HasPushed k pre s)
    (hin : s.inbox = presented (bytes.map .pktPush) ++ rest) :
    ∃ t, Host.Core.run core bytes.length s = .next t ∧ HasPushed k (pre ++ bytes) t ∧ t.inbox = rest ∧
      SameOutsidePacket s t := by
  induction bytes generalizing pre s with
  | nil => exact ⟨s, run_zero s, by simpa using h, hin, rfl, rfl, rfl⟩
  | cons b bytes ih =>
    obtain ⟨u, hstep, hpushed, hinbox, hsame⟩ := step_pushes h hin
    obtain ⟨t, hrun, ht, hrest, hsame'⟩ := ih hpushed hinbox
    exact ⟨t, (run_succ hstep _).trans hrun, by simpa using ht, hrest, hsame.trans hsame'⟩

theorem verdict_of_hasPushed {k : Kind} {bytes : List Byte} {s : State} (h : HasPushed k bytes s)
    (hc : s.cfg.inRange) :
    verdict s = .ok (specVerdict s.cfg.typeOff k (min bytes.length 511) (bytes.take 438)) := by
  rw [verdict_eq_specVerdict h.buffer hc, h.kind, h.len, h.stored]

/-- PKT.VAL on a loaded packet: what the spec's verdict makes of VS, FAILCODE and the response (41_packet_validate.md
R109, R110). -/
theorem step_validates {k : Kind} {bytes : List Byte} {s : State} {rest : List HostInput} (h : HasPushed k bytes s)
    (hc : s.cfg.inRange) (hin : s.inbox = .command (encode .pktVal) :: rest) :
    ∃ t, step s = .next t ∧ t.inbox = rest ∧ t.kind = k ∧ t.len = s.len ∧ t.pkt = s.pkt ∧
      t.failcode = specVerdict s.cfg.typeOff k (min bytes.length 511) (bytes.take 438) ∧
      t.vs = (if t.failcode = .ok then .valid else .failed) ∧
      t.responses.getLast? = some ⟨t.failcode, false, 0⟩ ∧ SameOutsidePacket s t := by
  have hpushed := h.with_inbox rest
  refine ⟨_, (step_of_encode hin rfl).trans (exec_pktVal_of_verdict hpushed.vs (verdict_of_hasPushed hpushed hc)), ?_⟩
  by_cases hok : specVerdict s.cfg.typeOff k (min bytes.length 511) (bytes.take 438) = .ok
  · simp [hok, h.kind, h.failcode, SameOutsidePacket]
  · simp [hok, h.kind, SameOutsidePacket]

/-- The buffer of a loaded packet reads the first 438 bytes. -/
theorem readByte_of_hasPushed {k : Kind} {bytes : List Byte} {s : State} (h : HasPushed k bytes s) (a : Nat) :
    readByte s.pkt a = (bytes.take 438)[a]? := by
  rw [readByte_of_range h.buffer, ← h.stored, packetBytes]

/-! ### A packet with one byte changed -/

theorem set_ne_self {bytes : List Byte} {i : Nat} {b c : Byte} (hb : bytes[i]? = some b) (hc : c ≠ b) :
    bytes.set i c ≠ bytes := by
  intro h
  have hlt : i < bytes.length := (List.getElem?_eq_some_iff.mp hb).1
  have hget : (bytes.set i c)[i]? = some c := List.getElem?_set_self hlt
  rw [h, hb] at hget
  exact hc (Option.some.inj hget).symm

/-- A position reads otherwise exactly where the byte was changed. -/
theorem getElem?_set_ne_iff {bytes : List Byte} {i j : Nat} {b c v : Byte} (hb : bytes[i]? = some b) (hc : c ≠ b)
    (hv : bytes[j]? = some v) : (bytes.set i c)[j]? ≠ some v ↔ i = j := by
  by_cases hij : i = j
  · subst hij
    have hlt : i < bytes.length := (List.getElem?_eq_some_iff.mp hb).1
    obtain rfl : b = v := Option.some.inj (hb.symm.trans hv)
    simp [List.getElem?_set_self hlt, hc]
  · simp [List.getElem?_set_ne hij, hv, hij]

/-- The first bytes are others exactly where the changed byte is one of them. -/
theorem take_set_ne_iff {bytes : List Byte} {i n : Nat} {b c : Byte} (hb : bytes[i]? = some b) (hc : c ≠ b) :
    (bytes.set i c).take n ≠ bytes.take n ↔ i < n := by
  by_cases hi : i < n
  · rw [List.take_set]
    exact iff_of_true (set_ne_self ((List.getElem?_take_of_lt hi).trans hb) hc) hi
  · rw [List.take_set_of_le (by omega)]
    exact iff_of_false (fun h => h rfl) hi

/-- The last two bytes are the CRC of the bytes before, from CRC_LO on (41_packet_validate.md R108). -/
def CrcFieldFits (k : Kind) (bytes : List Byte) : Prop :=
  (bytes.drop (expLen k - 2)).map BitVec.toNat =
    [(crc16 ((bytes.take (expLen k - 2)).drop (crcLo k))).toNat / 256,
     (crc16 ((bytes.take (expLen k - 2)).drop (crcLo k))).toNat % 256]

/-- A byte changed among those the CRC covers changes the CRC and not the field; one changed in the field changes the
field and not the CRC. -/
theorem not_crcFieldFits_set {k : Kind} {bytes : List Byte} {i : Nat} {b c : Byte} (h : CrcFieldFits k bytes)
    (hb : bytes[i]? = some b) (hc : c ≠ b) (hlo : crcLo k ≤ i) : ¬ CrcFieldFits k (bytes.set i c) := by
  intro hset
  unfold CrcFieldFits at h hset
  by_cases hi : i < expLen k - 2
  · rw [List.drop_set_of_lt hi, h, List.take_set, List.drop_set, if_neg (by omega)] at hset
    have hcov : ((bytes.take (expLen k - 2)).drop (crcLo k))[i - crcLo k]? = some b := by
      rw [List.getElem?_drop, Nat.add_sub_cancel' hlo, List.getElem?_take_of_lt hi, hb]
    refine crc16_set_ne hcov hc (BitVec.eq_of_toNat_eq ?_)
    simp only [List.cons.injEq, and_true] at hset
    omega
  · rw [List.take_set_of_le (by omega), ← h, List.drop_set, if_neg hi] at hset
    have hfield : (bytes.drop (expLen k - 2))[i - (expLen k - 2)]? = some b := by
      rw [List.getElem?_drop, Nat.add_sub_cancel' (by omega), hb]
    exact set_ne_self hfield hc (List.map_injective_iff.mpr (fun _ _ => BitVec.eq_of_toNat_eq) hset)

/-- The spec's verdict is OK exactly when no check fails. -/
theorem specVerdict_eq_ok_iff {typeOff : Nat} {k : Kind} {len : Nat} {bytes : List Byte} :
    specVerdict typeOff k len bytes = .ok ↔
      len = expLen k ∧ (k = .time → bytes[0]? = some 0x06) ∧
      (k = .loop ∨ k = .loop2 → bytes.take 3 = [0x4C, 0x4F, 0x4F]) ∧
      (k = .loop ∨ k = .loop2 → bytes[typeOff]? = some (if k = .loop then 0 else 1)) ∧ CrcFieldFits k bytes := by
  rw [specVerdict_eq]
  unfold CrcFieldFits
  split_ifs <;> simp_all

/-- A changed byte of a packet that passes fails the first check that looks at it (90_conflicts.md C5). -/
theorem specVerdict_set {typeOff : Nat} {k : Kind} {len : Nat} {bytes : List Byte} {i : Nat} {b c : Byte}
    (hok : specVerdict typeOff k len bytes = .ok) (hb : bytes[i]? = some b) (hc : c ≠ b) :
    specVerdict typeOff k len (bytes.set i c) =
      if k = .time ∧ i = 0 then .commandNotAcknowledged
      else if (k = .loop ∨ k = .loop2) ∧ i < 3 then .tagMismatch
      else if (k = .loop ∨ k = .loop2) ∧ i = typeOff then .typeMismatch
      else .checksumMismatch := by
  obtain ⟨hlen, hack, htag, htypeByte, hcrc⟩ := specVerdict_eq_ok_iff.mp hok
  have hackFails : k = .time ∧ (bytes.set i c)[0]? ≠ some 0x06 ↔ k = .time ∧ i = 0 :=
    and_congr_right fun hk => getElem?_set_ne_iff hb hc (hack hk)
  have htagFails : (k = .loop ∨ k = .loop2) ∧ (bytes.set i c).take 3 ≠ [0x4C, 0x4F, 0x4F] ↔
      (k = .loop ∨ k = .loop2) ∧ i < 3 :=
    and_congr_right fun hk => htag hk ▸ take_set_ne_iff hb hc
  have htypeFails : (k = .loop ∨ k = .loop2) ∧ (bytes.set i c)[typeOff]? ≠ some (if k = .loop then 0 else 1) ↔
      (k = .loop ∨ k = .loop2) ∧ i = typeOff :=
    and_congr_right fun hk => getElem?_set_ne_iff hb hc (htypeByte hk)
  rw [specVerdict_eq, if_neg (not_not_intro hlen)]
  simp only [hackFails, htagFails, htypeFails]
  by_cases hfirst : k = .time ∧ i = 0
  · rw [if_pos hfirst, if_pos hfirst]
  · have hlo : crcLo k ≤ i := by cases k <;> simp [crcLo] at hfirst ⊢; omega
    have hcrcFails := not_crcFieldFits_set hcrc hb hc hlo
    rw [CrcFieldFits] at hcrcFails
    rw [if_pos hcrcFails]

/-! ### The buffer with a byte overwritten -/

/-- A write at a listed offset lists the same offsets. -/
theorem map_fst_storeByte {m : Memory} (hwf : Memory.wf m) {i : Nat} (hi : i ∈ m.map Prod.fst) (c : Byte) :
    (storeByte m i c).map Prod.fst = m.map Prod.fst := by
  induction m with
  | nil => simp at hi
  | cons y m ih =>
    obtain ⟨k, d⟩ := y
    obtain ⟨hk, hm⟩ := List.pairwise_cons.mp hwf
    rcases List.mem_cons.mp hi with rfl | htail
    · simp [storeByte]
    · obtain ⟨x, hx, rfl⟩ := List.mem_map.mp htail
      have hlt : k < x.1 := hk x hx
      simp [storeByte, Nat.not_lt_of_gt hlt, Nat.ne_of_gt hlt, ih hm htail]

section
variable {s : State} (hb : bufferHoldsPushedBytes s) {i : Nat} {b : Byte} (hi : readByte s.pkt i = some b) (c : Byte)
include hb hi

theorem bufferHoldsPushedBytes_storeByte : bufferHoldsPushedBytes { s with pkt := storeByte s.pkt i c } := by
  have hlt : i < (packetBytes s).length :=
    (List.getElem?_eq_some_iff.mp ((readByte_of_range hb i).symm.trans hi)).1
  have hmem : i ∈ s.pkt.map Prod.fst := by
    rw [hb, List.mem_range, ← packetBytes_length hb]
    exact hlt
  exact (map_fst_storeByte (wf_of_range hb) hmem c).trans hb

theorem packetBytes_storeByte : packetBytes { s with pkt := storeByte s.pkt i c } = (packetBytes s).set i c := by
  have hbytes : (packetBytes s)[i]? = some b := (readByte_of_range hb i).symm.trans hi
  apply List.ext_getElem?
  intro j
  have hread : (packetBytes { s with pkt := storeByte s.pkt i c })[j]? = readByte (storeByte s.pkt i c) j :=
    (readByte_of_range (bufferHoldsPushedBytes_storeByte hb hi c) j).symm
  rw [hread]
  by_cases hij : i = j
  · subst hij
    rw [readByte_storeByte_same, List.getElem?_set_self (List.getElem?_eq_some_iff.mp hbytes).1]
  · rw [readByte_storeByte_other _ _ (Ne.symm hij), List.getElem?_set_ne hij, readByte_of_range hb, packetBytes]

end

/-! ### The obligations -/

/-- Settles O23: CRC.CLR makes ACC 0, and by induction on the inputs each feeds its own byte and nothing else. -/
theorem streamingEqualsTheCrcFunction : Obligations.StreamingEqualsTheCrcFunction := by
  unfold Obligations.StreamingEqualsTheCrcFunction
  intro s inputs hinv hin hfeeds
  have hstep := (step_of_encode hin rfl).trans (exec_crcClr _)
  obtain ⟨t, hrun, hacc⟩ := run_feeds (step_keeps_inv hinv hstep) rfl hfeeds
  exact ⟨t, (run_succ hstep _).trans hrun, hacc⟩

/-- Settles O29: PKT.CLR starts with no byte pushed, by induction each push adds its byte, and PKT.VAL answers the
verdict on what is then stored. -/
theorem loadedPacketGetsTheSpecsVerdict : Obligations.LoadedPacketGetsTheSpecsVerdict := by
  unfold Obligations.LoadedPacketGetsTheSpecsVerdict
  intro k bytes s rest hc hin
  have hin' : s.inbox = .command (encode (.pktClr k)) ::
      (presented (bytes.map .pktPush) ++ .command (encode .pktVal) :: rest) := by simp [hin, pktLoad, presented]
  obtain ⟨u, hstart, hempty, huInbox, hsu⟩ := step_starts hin'
  obtain ⟨v, hpush, hpushed, hvInbox, huv⟩ := run_pushes hempty huInbox
  obtain ⟨hcfg, -⟩ := hsu.trans huv
  obtain ⟨t, hval, htInbox, hkind, hlen, hpkt, hfail, hvs, hresp, hvt⟩ := step_validates hpushed (hcfg ▸ hc) hvInbox
  obtain ⟨-, hacc, hmatch⟩ := (hsu.trans huv).trans hvt
  have hrun : Host.Core.run core (bytes.length + 2) s = .next t :=
    (run_succ hstart _).trans ((run_add hpush 1).trans (run_succ hval 0))
  refine ⟨t, hrun, htInbox, hkind, hlen ▸ hpushed.len, fun a => ?_, hcfg ▸ hfail, hvs, hresp, hacc, hmatch⟩
  rw [hpkt]
  exact readByte_of_hasPushed hpushed a

/-- Settles O30: the flipped byte is another byte at its offset, and the verdict on the changed bytes is the code of its
place. -/
theorem singleBitFlipRejectsThePacket : Obligations.SingleBitFlipRejectsThePacket := by
  unfold Obligations.SingleBitFlipRejectsThePacket
  intro s t i k b hinv hv h hvalid hi hk
  have hok : specVerdict s.cfg.typeOff s.kind s.len.toNat (packetBytes s) = .ok := by
    have hverdict : verdict s = .ok .ok := by
      rcases exec_pktVal_cases h with ⟨-, hok, -⟩ | ⟨f, -, -, -, rfl⟩ | ⟨hrefused, -⟩
      · exact hok
      · cases hvalid
      · exact absurd hv hrefused
    rw [verdict_eq_specVerdict hinv.buffer hinv.parameters] at hverdict
    exact Except.ok.inj hverdict
  have hbytes : (packetBytes s)[i]? = some b := (readByte_of_range hinv.buffer i).symm.trans hi
  have hflipped := specVerdict_set hok hbytes (xor_bit_ne hk b)
  rw [← packetBytes_storeByte hinv.buffer hi] at hflipped
  have hverdict := verdict_eq_specVerdict (bufferHoldsPushedBytes_storeByte hinv.buffer hi (b ^^^ (1#8 <<< k)))
    hinv.parameters
  rw [hflipped] at hverdict
  refine ⟨_, exec_pktVal_fail hv hverdict ?_, rfl, rfl⟩
  split_ifs <;> decide

end Sys2Proof.Machine
